-- ==== Sys2Proof/Word.lean ====
section
/-! DEFINITION. The word types of the core (spec 00 R9, R12): 32-bit words, bytes, 5-bit register indices. -/

namespace Sys2Proof

/-- A register, address or data value: 32 bits (00 R12). -/
abbrev Word := BitVec 32

/-- The smallest addressable unit (20 R80). -/
abbrev Byte := BitVec 8

/-- A register index, a 5-bit field of the word (10 R31, 30 R121). -/
abbrev RegIdx := BitVec 5

/-- The opcode field, 7 bits (30 R121). -/
abbrev Opcode := BitVec 7

end Sys2Proof
end

