-- ==== Sys2Proof/Machine/Flags.lean ====
section
/-! DEFINITION. Flag computations: the core has none (10 R40: no status flags, condition codes or predicate registers). What other
machines take from flags, this one takes from comparing two operands: the conditions of the branches (44 R432 to R437) and the
set-less-than results (41 R305, R306; 42 R353). -/

namespace Sys2Proof.Machine

/-- `a == b` (00 R12). -/
def condEq (a b : Word) : Bool := decide (a = b)

/-- `a != b` (00 R12). -/
def condNe (a b : Word) : Bool := decide (a ≠ b)

/-- `s(a) < s(b)`: two's complement (00 R12). -/
def condLt (a b : Word) : Bool := decide (a.toInt < b.toInt)

/-- `s(a) >= s(b)` (00 R12). -/
def condGe (a b : Word) : Bool := decide (b.toInt ≤ a.toInt)

/-- `u(a) < u(b)` (00 R12). -/
def condLtu (a b : Word) : Bool := decide (a.toNat < b.toNat)

/-- `u(a) >= u(b)` (00 R12). -/
def condGeu (a b : Word) : Bool := decide (b.toNat ≤ a.toNat)

/-- `c ? 1 : 0`, the result of a set-less-than (41 R305). -/
def boolWord (c : Bool) : Word := if c then 1#32 else 0#32

end Sys2Proof.Machine
end

