-- ==== Sys2Proof/Decode.lean ====
section
/-! DEFINITION. The decoder, total on every word (30 R121 to R136), the byte order of a fetched word (20 R86),
and the encoder of the formats (30 R123). -/

namespace Sys2Proof

/-! ### Fields of a word (30 R121) -/

def opcodeOf (w : Word) : Opcode := w.extractLsb' 0 7
def rdOf (w : Word) : RegIdx := w.extractLsb' 7 5
def funct3Of (w : Word) : BitVec 3 := w.extractLsb' 12 3
def rs1Of (w : Word) : RegIdx := w.extractLsb' 15 5
def rs2Of (w : Word) : RegIdx := w.extractLsb' 20 5
def funct7Of (w : Word) : BitVec 7 := w.extractLsb' 25 7

/-! ### The seven recognized opcodes (30 R131; PRESUMED RV32I values, log 8) -/

def opOP : Opcode := 0b0110011#7
def opOPIMM : Opcode := 0b0010011#7
def opLOAD : Opcode := 0b0000011#7
def opSTORE : Opcode := 0b0100011#7
def opBRANCH : Opcode := 0b1100011#7
def opJAL : Opcode := 0b1101111#7
def opLUI : Opcode := 0b0110111#7

/-! ### Immediate fields, before extension (30 R124 to R130) -/

/-- `word[31:20]` (30 R124). -/
def immIOf (w : Word) : BitVec 12 := w.extractLsb' 20 12

/-- The shift amount `word[24:20]` (30 R130). -/
def shamtOf (w : Word) : BitVec 5 := w.extractLsb' 20 5

/-- `word[31:25]`, then `word[11:7]` (30 R125). -/
def immSOf (w : Word) : BitVec 12 := w.extractLsb' 25 7 ++ w.extractLsb' 7 5

/-- `word[31]`, `word[7]`, `word[30:25]`, `word[11:8]`, then a 0 (30 R126). -/
def offBOf (w : Word) : BitVec 13 :=
  w.extractLsb' 31 1 ++ w.extractLsb' 7 1 ++ w.extractLsb' 25 6 ++ w.extractLsb' 8 4 ++ 0#1

/-- `word[31]`, `word[19:12]`, `word[20]`, `word[30:21]`, then a 0 (30 R127). -/
def offJOf (w : Word) : BitVec 21 :=
  w.extractLsb' 31 1 ++ w.extractLsb' 12 8 ++ w.extractLsb' 20 1 ++ w.extractLsb' 21 10 ++ 0#1

/-- `word[31:12]` (30 R128). -/
def immUOf (w : Word) : BitVec 20 := w.extractLsb' 12 20

/-- The upper 20 bits, low 12 bits zero (30 R128). -/
def upperImm (imm : BitVec 20) : Word := imm ++ 0#12

/-- `decode(word).imm`: the extended immediate of the format the opcode selects (30 R122, R124 to R128), 0 for R-type, for
the NOP word and for every opcode outside 30 R131 (R129). It does not depend on whether the word is supported. -/
def immOf (w : Word) : Word :=
  if opcodeOf w = opOPIMM ∨ opcodeOf w = opLOAD then (immIOf w).signExtend 32
  else if opcodeOf w = opSTORE then (immSOf w).signExtend 32
  else if opcodeOf w = opBRANCH then (offBOf w).signExtend 32
  else if opcodeOf w = opJAL then (offJOf w).signExtend 32
  else if opcodeOf w = opLUI then upperImm (immUOf w)
  else 0#32

/-- The decoder's output record of 30 R121. -/
structure Fields where
  opcode : Opcode
  rd : RegIdx
  funct3 : BitVec 3
  rs1 : RegIdx
  rs2 : RegIdx
  funct7 : BitVec 7
  imm : Word
deriving DecidableEq, Repr

/-- All six fields of every word, and its immediate (30 R121, R122). -/
def decodeFields (w : Word) : Fields where
  opcode := opcodeOf w
  rd := rdOf w
  funct3 := funct3Of w
  rs1 := rs1Of w
  rs2 := rs2Of w
  funct7 := funct7Of w
  imm := immOf w

/-! ### Classification (30 R132 to R136) -/

/-- The class of a word (30 R136): an instruction (the NOP among them), or rejected by name. -/
inductive Decoded where
  | instr (i : Instr)
  /-- A non-zero word whose opcode is not one of 30 R131 (30 R134). -/
  | unrecognized
  /-- A recognized opcode with function fields outside 30 R132 (30 R135). -/
  | unsupported
deriving DecidableEq, Repr

/-- Opcode 0110011, by funct7 and funct3 (30 R132). -/
def decodeOp (w : Word) : Decoded :=
  if funct7Of w = 0b0000000#7 then
    if funct3Of w = 0b000#3 then .instr (.add (rdOf w) (rs1Of w) (rs2Of w))
    else if funct3Of w = 0b001#3 then .instr (.sll (rdOf w) (rs1Of w) (rs2Of w))
    else if funct3Of w = 0b010#3 then .instr (.slt (rdOf w) (rs1Of w) (rs2Of w))
    else if funct3Of w = 0b011#3 then .instr (.sltu (rdOf w) (rs1Of w) (rs2Of w))
    else if funct3Of w = 0b100#3 then .instr (.xor (rdOf w) (rs1Of w) (rs2Of w))
    else if funct3Of w = 0b101#3 then .instr (.srl (rdOf w) (rs1Of w) (rs2Of w))
    else if funct3Of w = 0b110#3 then .instr (.or (rdOf w) (rs1Of w) (rs2Of w))
    else .instr (.and (rdOf w) (rs1Of w) (rs2Of w))
  else if funct7Of w = 0b0100000#7 then
    if funct3Of w = 0b000#3 then .instr (.sub (rdOf w) (rs1Of w) (rs2Of w))
    else if funct3Of w = 0b101#3 then .instr (.sra (rdOf w) (rs1Of w) (rs2Of w))
    else .unsupported
  else .unsupported

/-- Opcode 0010011, by funct3 and, for the shifts, imm[11:5] (30 R130, R132). -/
def decodeOpImm (w : Word) : Decoded :=
  if funct3Of w = 0b000#3 then .instr (.addi (rdOf w) (rs1Of w) (immIOf w))
  else if funct3Of w = 0b001#3 then
    if funct7Of w = 0b0000000#7 then .instr (.slli (rdOf w) (rs1Of w) (shamtOf w)) else .unsupported
  else if funct3Of w = 0b010#3 then .instr (.slti (rdOf w) (rs1Of w) (immIOf w))
  else if funct3Of w = 0b100#3 then .instr (.xori (rdOf w) (rs1Of w) (immIOf w))
  else if funct3Of w = 0b101#3 then
    if funct7Of w = 0b0000000#7 then .instr (.srli (rdOf w) (rs1Of w) (shamtOf w))
    else if funct7Of w = 0b0100000#7 then .instr (.srai (rdOf w) (rs1Of w) (shamtOf w))
    else .unsupported
  else if funct3Of w = 0b110#3 then .instr (.ori (rdOf w) (rs1Of w) (immIOf w))
  else if funct3Of w = 0b111#3 then .instr (.andi (rdOf w) (rs1Of w) (immIOf w))
  else .unsupported

/-- Opcode 1100011, by funct3 (30 R132). -/
def decodeBranch (w : Word) : Decoded :=
  if funct3Of w = 0b000#3 then .instr (.beq (rs1Of w) (rs2Of w) (offBOf w))
  else if funct3Of w = 0b001#3 then .instr (.bne (rs1Of w) (rs2Of w) (offBOf w))
  else if funct3Of w = 0b100#3 then .instr (.blt (rs1Of w) (rs2Of w) (offBOf w))
  else if funct3Of w = 0b101#3 then .instr (.bge (rs1Of w) (rs2Of w) (offBOf w))
  else if funct3Of w = 0b110#3 then .instr (.bltu (rs1Of w) (rs2Of w) (offBOf w))
  else if funct3Of w = 0b111#3 then .instr (.bgeu (rs1Of w) (rs2Of w) (offBOf w))
  else .unsupported

/-- `classify(word)` of 30 R136, total on all 2^32 words, with the operands of the class. -/
def decodeWord (w : Word) : Decoded :=
  if w = 0#32 then .instr .nop
  else if opcodeOf w = opOP then decodeOp w
  else if opcodeOf w = opOPIMM then decodeOpImm w
  else if opcodeOf w = opLOAD then
    if funct3Of w = 0b010#3 then .instr (.lw (rdOf w) (rs1Of w) (immIOf w)) else .unsupported
  else if opcodeOf w = opSTORE then
    if funct3Of w = 0b010#3 then .instr (.sw (rs1Of w) (rs2Of w) (immSOf w)) else .unsupported
  else if opcodeOf w = opBRANCH then decodeBranch w
  else if opcodeOf w = opJAL then .instr (.jal (rdOf w) (offJOf w))
  else if opcodeOf w = opLUI then .instr (.lui (rdOf w) (immUOf w))
  else .unrecognized

/-- `isLoad(w)`: the class of the word is LW (40 R212). -/
def isLoad (w : Word) : Bool :=
  match decodeWord w with
  | .instr (.lw _ _ _) => true
  | _ => false

/-- `isStore(w)`: the class of the word is SW (40 R212). -/
def isStore (w : Word) : Bool :=
  match decodeWord w with
  | .instr (.sw _ _ _) => true
  | _ => false

/-- `isControl(w)`: a branch or jump, by opcode alone (40 R212). -/
def isControl (w : Word) : Bool := decide (opcodeOf w = opBRANCH ∨ opcodeOf w = opJAL)

/-- The destination register of an instruction that has one (40 R243); LUI's is used only where `luiWritesRd`. -/
def Instr.dest? : Instr → Option RegIdx
  | .add rd _ _ | .sub rd _ _ | .sll rd _ _ | .slt rd _ _ | .sltu rd _ _ | .xor rd _ _ | .srl rd _ _ | .sra rd _ _
  | .or rd _ _ | .and rd _ _ | .addi rd _ _ | .slti rd _ _ | .xori rd _ _ | .ori rd _ _ | .andi rd _ _
  | .slli rd _ _ | .srli rd _ _ | .srai rd _ _ | .lui rd _ | .lw rd _ _ | .jal rd _ => some rd
  | .sw _ _ _ | .beq _ _ _ | .bne _ _ _ | .blt _ _ _ | .bge _ _ _ | .bltu _ _ _ | .bgeu _ _ _ | .nop => none

/-! ### Bytes of a word (20 R84, R85: the lowest address holds bits 7:0) -/

/-- Byte `k` of a word, byte 0 its bits 7:0. -/
def byteOf (w : Word) (k : Nat) : Byte := w.extractLsb' (8 * k) 8

/-- The word of four bytes, the lowest address first (20 R84). -/
def wordOfBytes (b0 b1 b2 b3 : Byte) : Word := b3 ++ b2 ++ b1 ++ b0

/-- The decoder on bytes as memory holds them: the class of the first word and the bytes after it, or `none` where
fewer than four bytes are left (30 R120: every instruction is one word). -/
def decodeBytes : List Byte → Option (Decoded × List Byte)
  | b0 :: b1 :: b2 :: b3 :: rest => some (decodeWord (wordOfBytes b0 b1 b2 b3), rest)
  | _ => none

/-- The four bytes of a word, the lowest address first. -/
def bytesOf (w : Word) : List Byte := [byteOf w 0, byteOf w 1, byteOf w 2, byteOf w 3]

/-- The word whose low `nbits` bits are `w`, numbered as the opcode table numbers them; the bits above are 0. -/
def tableWord (nbits w : Nat) : Word := BitVec.ofNat 32 (w % 2 ^ nbits)

/-- The instruction the decoder reads from the opcode table's word. -/
def decodeTableWord (nbits w : Nat) : Option Instr :=
  match decodeBytes (bytesOf (tableWord nbits w)) with
  | some (.instr i, _) => some i
  | _ => none

/-! ### The encoder (30 R123, R132) -/

def encR (f7 : BitVec 7) (f3 : BitVec 3) (rd rs1 rs2 : RegIdx) : Word := f7 ++ rs2 ++ rs1 ++ f3 ++ rd ++ opOP

def encI (op : Opcode) (f3 : BitVec 3) (rd rs1 : RegIdx) (imm : BitVec 12) : Word := imm ++ rs1 ++ f3 ++ rd ++ op

/-- A shift by an immediate: imm[11:5] selects it, imm[4:0] is the amount (30 R130). -/
def encShift (f7 : BitVec 7) (f3 : BitVec 3) (rd rs1 : RegIdx) (shamt : BitVec 5) : Word :=
  f7 ++ shamt ++ rs1 ++ f3 ++ rd ++ opOPIMM

def encS (rs1 rs2 : RegIdx) (imm : BitVec 12) : Word :=
  imm.extractLsb' 5 7 ++ rs2 ++ rs1 ++ 0b010#3 ++ imm.extractLsb' 0 5 ++ opSTORE

/-- Offset bits 12, 11, 10:5, 4:1 at word bits 31, 7, 30:25, 11:8 (30 R123, R140). -/
def encB (f3 : BitVec 3) (rs1 rs2 : RegIdx) (off : BitVec 13) : Word :=
  off.extractLsb' 12 1 ++ off.extractLsb' 5 6 ++ rs2 ++ rs1 ++ f3 ++ off.extractLsb' 1 4 ++ off.extractLsb' 11 1 ++ opBRANCH

/-- Offset bits 20, 10:1, 11, 19:12 at word bits 31, 30:21, 20, 19:12 (30 R123, R140). -/
def encJ (rd : RegIdx) (off : BitVec 21) : Word :=
  off.extractLsb' 20 1 ++ off.extractLsb' 1 10 ++ off.extractLsb' 11 1 ++ off.extractLsb' 12 8 ++ rd ++ opJAL

def encU (rd : RegIdx) (imm : BitVec 20) : Word := imm ++ rd ++ opLUI

/-- The word of an instruction (30 R123, R132). -/
def encode : Instr → Word
  | .add rd rs1 rs2 => encR 0b0000000#7 0b000#3 rd rs1 rs2
  | .sub rd rs1 rs2 => encR 0b0100000#7 0b000#3 rd rs1 rs2
  | .sll rd rs1 rs2 => encR 0b0000000#7 0b001#3 rd rs1 rs2
  | .slt rd rs1 rs2 => encR 0b0000000#7 0b010#3 rd rs1 rs2
  | .sltu rd rs1 rs2 => encR 0b0000000#7 0b011#3 rd rs1 rs2
  | .xor rd rs1 rs2 => encR 0b0000000#7 0b100#3 rd rs1 rs2
  | .srl rd rs1 rs2 => encR 0b0000000#7 0b101#3 rd rs1 rs2
  | .sra rd rs1 rs2 => encR 0b0100000#7 0b101#3 rd rs1 rs2
  | .or rd rs1 rs2 => encR 0b0000000#7 0b110#3 rd rs1 rs2
  | .and rd rs1 rs2 => encR 0b0000000#7 0b111#3 rd rs1 rs2
  | .addi rd rs1 imm => encI opOPIMM 0b000#3 rd rs1 imm
  | .slti rd rs1 imm => encI opOPIMM 0b010#3 rd rs1 imm
  | .xori rd rs1 imm => encI opOPIMM 0b100#3 rd rs1 imm
  | .ori rd rs1 imm => encI opOPIMM 0b110#3 rd rs1 imm
  | .andi rd rs1 imm => encI opOPIMM 0b111#3 rd rs1 imm
  | .slli rd rs1 shamt => encShift 0b0000000#7 0b001#3 rd rs1 shamt
  | .srli rd rs1 shamt => encShift 0b0000000#7 0b101#3 rd rs1 shamt
  | .srai rd rs1 shamt => encShift 0b0100000#7 0b101#3 rd rs1 shamt
  | .lui rd imm => encU rd imm
  | .lw rd rs1 imm => encI opLOAD 0b010#3 rd rs1 imm
  | .sw rs1 rs2 imm => encS rs1 rs2 imm
  | .beq rs1 rs2 off => encB 0b000#3 rs1 rs2 off
  | .bne rs1 rs2 off => encB 0b001#3 rs1 rs2 off
  | .blt rs1 rs2 off => encB 0b100#3 rs1 rs2 off
  | .bge rs1 rs2 off => encB 0b101#3 rs1 rs2 off
  | .bltu rs1 rs2 off => encB 0b110#3 rs1 rs2 off
  | .bgeu rs1 rs2 off => encB 0b111#3 rs1 rs2 off
  | .jal rd off => encJ rd off
  | .nop => 0#32

/-! ### The opcode table's rows (spec/opcode_table.json), for the agreement laws -/

/-- A row's mask and match word: a word belongs to the row when `word &&& mask = value`. -/
structure OpcodeRow where
  mask : Word
  value : Word
deriving DecidableEq, Repr

/-- The row of spec/opcode_table.json of each instruction, its mask and match copied from the table. -/
def rowOf : Instr → OpcodeRow
  | .add _ _ _ => ⟨0xFE00707F#32, 0x00000033#32⟩
  | .sub _ _ _ => ⟨0xFE00707F#32, 0x40000033#32⟩
  | .sll _ _ _ => ⟨0xFE00707F#32, 0x00001033#32⟩
  | .slt _ _ _ => ⟨0xFE00707F#32, 0x00002033#32⟩
  | .sltu _ _ _ => ⟨0xFE00707F#32, 0x00003033#32⟩
  | .xor _ _ _ => ⟨0xFE00707F#32, 0x00004033#32⟩
  | .srl _ _ _ => ⟨0xFE00707F#32, 0x00005033#32⟩
  | .sra _ _ _ => ⟨0xFE00707F#32, 0x40005033#32⟩
  | .or _ _ _ => ⟨0xFE00707F#32, 0x00006033#32⟩
  | .and _ _ _ => ⟨0xFE00707F#32, 0x00007033#32⟩
  | .addi _ _ _ => ⟨0x0000707F#32, 0x00000013#32⟩
  | .slti _ _ _ => ⟨0x0000707F#32, 0x00002013#32⟩
  | .xori _ _ _ => ⟨0x0000707F#32, 0x00004013#32⟩
  | .ori _ _ _ => ⟨0x0000707F#32, 0x00006013#32⟩
  | .andi _ _ _ => ⟨0x0000707F#32, 0x00007013#32⟩
  | .slli _ _ _ => ⟨0xFE00707F#32, 0x00001013#32⟩
  | .srli _ _ _ => ⟨0xFE00707F#32, 0x00005013#32⟩
  | .srai _ _ _ => ⟨0xFE00707F#32, 0x40005013#32⟩
  | .lui _ _ => ⟨0x0000007F#32, 0x00000037#32⟩
  | .lw _ _ _ => ⟨0x0000707F#32, 0x00002003#32⟩
  | .sw _ _ _ => ⟨0x0000707F#32, 0x00002023#32⟩
  | .beq _ _ _ => ⟨0x0000707F#32, 0x00000063#32⟩
  | .bne _ _ _ => ⟨0x0000707F#32, 0x00001063#32⟩
  | .blt _ _ _ => ⟨0x0000707F#32, 0x00004063#32⟩
  | .bge _ _ _ => ⟨0x0000707F#32, 0x00005063#32⟩
  | .bltu _ _ _ => ⟨0x0000707F#32, 0x00006063#32⟩
  | .bgeu _ _ _ => ⟨0x0000707F#32, 0x00007063#32⟩
  | .jal _ _ => ⟨0x0000007F#32, 0x0000006F#32⟩
  | .nop => ⟨0xFFFFFFFF#32, 0x00000000#32⟩

end Sys2Proof
end

