-- ==== Sys2Proof/Config.lean ====
section
/-! DEFINITION. The parameters of 00 R9: what the source leaves to the implementation or marks as an open question. -/

namespace Sys2Proof

/-- A memory region: the bytes `first` to `last` inclusive (20 R81). -/
structure Region where
  name : String
  first : Word
  last : Word
deriving DecidableEq, Repr

/-- The configuration of the core (00 R9, 10 R30), and `stallRecordShown` for a conflict the spec leaves standing. It is carried in `State.cfg` and no cycle and no host
command writes it, so a statement over all states holds for every value of every parameter (log 1). -/
structure Config where
  /-- The region list, in search order (20 R81, R82); OPEN in the spec. -/
  regions : List Region
  /-- The reset PC and the load address of the image (70 R602, R608); OPEN in the spec. -/
  textBase : Word
  /-- The end-of-program sentinel of run to completion (60 R522); OPEN; `none` when not configured. -/
  endPC : Option Word
  /-- The forwarding flag at power-on (10 R55); OPEN in the spec. -/
  forwardingAtPowerOn : Bool
  /-- Whether writes to register 0 are discarded (10 R32); the spec's default is `false`. -/
  x0HardwiredZero : Bool
  /-- Whether LUI writes its destination (42 R390); the spec's default is `false`. -/
  luiWritesRd : Bool
  /-- Whether "show latches" returns `remaining`, `prodOpcode` and `prodRd`: 60 R529 says it returns the stall state of 10 R48, and
  10 R52 says the host has no access to these three. The model's own parameter, DESIGN CHOICE (log 21): both readings are kept. -/
  stallRecordShown : Bool
  /-- The program image, a list of words (70 R608); `none` when there is no readable image (70 R609). -/
  image : Option (List Word)
deriving DecidableEq, Repr

/-- DESIGN CHOICE (log 2, 3, 4), unsafe: the configuration `State.reset` carries. Regions and `textBase` are
the spec's example configuration (00 R10), the two switches its defaults (00 R9), and show latches as 60 R529 says (log 21); `endPC` is not configured, forwarding
starts off, and there is no program image. No statement rests on these values. -/
def Config.example : Config where
  regions := [⟨"text", 0x00000000#32, 0x00000FFF#32⟩, ⟨"data", 0x00001000#32, 0x00001FFF#32⟩]
  textBase := 0x00000000#32
  endPC := none
  forwardingAtPowerOn := false
  x0HardwiredZero := false
  luiWritesRd := false
  stallRecordShown := true
  image := none

end Sys2Proof
end

