-- ==== Sys2Proof/Machine/State.lean ====
section
/-! DEFINITION. The state of the core, whole (10 R30), the reasons a step or a host command can stop, and the state after reset. -/

namespace Sys2Proof.Machine

/-- Memory: the bytes that are not 0, by address, addresses strictly rising (`Memory.wf`). An address that is not listed
reads 0, the reset contents of every region (20 R98). -/
abbrev Memory := List Host.Cell

/-- The fetch to decode latch (10 R43). -/
structure IFID where
  word : Word
  pc : Word
deriving DecidableEq, Repr

/-- The decode to execute latch (10 R44). -/
structure IDEX where
  word : Word
  pc : Word
  opA : Word
  opB : Word
  imm : Word
deriving DecidableEq, Repr

/-- The execute to memory latch (10 R45). -/
structure EXMEM where
  word : Word
  opA : Word
  opB : Word
  aluOut : Word
  regWrite : Bool
  rd : RegIdx
deriving DecidableEq, Repr

/-- The memory to writeback latch (10 R46). -/
structure MEMWB where
  word : Word
  aluOut : Word
  memData : Word
  regWrite : Bool
  rd : RegIdx
deriving DecidableEq, Repr

/-- The bubbles: every field zero (10 R47, 00 R14). -/
def IFID.zero : IFID := ⟨0#32, 0#32⟩
def IDEX.zero : IDEX := ⟨0#32, 0#32, 0#32, 0#32, 0#32⟩
def EXMEM.zero : EXMEM := ⟨0#32, 0#32, 0#32, 0#32, false, 0#5⟩
def MEMWB.zero : MEMWB := ⟨0#32, 0#32, 0#32, false, 0#5⟩

/-- The mode of the stall state (10 R48). -/
inductive StallMode where
  | normal
  | stalled
  | branchBubble
deriving DecidableEq, Repr

/-- The stall state (10 R48). `remaining` is 0 unless the mode is `stalled`, and at most 2 (`StallOk` in Safety.lean). -/
structure StallState where
  mode : StallMode
  remaining : Nat
  prodOpcode : Opcode
  prodRd : RegIdx
  forwarding : Bool
deriving DecidableEq, Repr

/-- The halt reasons of 60 R502; `noHalt` is NONE. -/
inductive HaltReason where
  | noHalt
  | unrecognizedOpcode
  | unsupportedFunct
  | endSentinel
deriving DecidableEq, Repr

/-- The codes of 60 R502. -/
def HaltReason.code : HaltReason → Nat
  | .noHalt => 0
  | .unrecognizedOpcode => 1
  | .unsupportedFunct => 2
  | .endSentinel => 3

/-- The halt state (10 R50). -/
structure HaltState where
  halted : Bool
  reason : HaltReason
  pc : Word
  word : Word
deriving DecidableEq, Repr

/-- Not halted, nothing recorded (70 R600). -/
def HaltState.clear : HaltState := ⟨false, .noHalt, 0#32, 0#32⟩

/-- The state of the core and of the memory attached to it (10 R30), with the configuration it runs under. -/
structure State where
  /-- The parameters of 00 R9, not state of the spec: carried, read, never written (log 1). -/
  cfg : Config
  /-- The general registers (10 R31). -/
  x : Vector Word 32
  /-- The legacy accumulators (10 R41). -/
  hi : Word
  lo : Word
  /-- The address of the next instruction fetch (10 R36). -/
  pc : Word
  ifid : IFID
  idex : IDEX
  exmem : EXMEM
  memwb : MEMWB
  stall : StallState
  halt : HaltState
  /-- Cycles since reset (10 R51). -/
  cycleCount : Nat
  /-- The "committed-instruction counter", incremented every cycle (10 R51, 40 R224). -/
  instretCount : Nat
  /-- The bytes of all regions, by address (20 R80, R81; log 6). -/
  mem : Memory
deriving DecidableEq, Repr

/-- The faults of the core: none. It raises no exception and takes no trap (60 R500); what stops it is a halt, which is a
next state. So no step and no command answers a fault (safe). -/
inductive Fault where
deriving DecidableEq, Repr

/-- Why a host command, or an instruction not modelled, is refused. No step of the machine is ever refused. -/
inductive Refusal where
  /-- Raised by an arm of `exec` whose instruction has no meaning; no arm raises it (safe). -/
  | notModelled (mnemonic : String)
  /-- Raised by reset and power-on on a region list that breaks 20 R81, "a model refuses a configuration that
  breaks this" (safe). -/
  | regionsIllFormed
  /-- Raised by reset and power-on without a readable program image, 70 R609 "a model refuses the load" (safe). -/
  | noProgram
  /-- Raised by reset and power-on on an image outside the text region, 70 R610 "a model refuses an image that does
  not fit" (safe). -/
  | imageDoesNotFit
  /-- Raised by run to completion where `endPC` is not configured, its precondition in 60 R520 (safe). -/
  | endPCNotConfigured
  /-- Raised by run to completion when its fuel runs out, 60 R522 "reports no result" (safe). -/
  | noResult
deriving DecidableEq, Repr

/-- Every field at its reset value (10 R54, 70 R600) but for the image in memory: memory is all zero, nothing listed. -/
def State.cleared (cfg : Config) (forwarding : Bool) : State where
  cfg := cfg
  x := Vector.replicate 32 0#32
  hi := 0#32
  lo := 0#32
  pc := cfg.textBase
  ifid := IFID.zero
  idex := IDEX.zero
  exmem := EXMEM.zero
  memwb := MEMWB.zero
  stall := ⟨.normal, 0, 0#7, 0#5, forwarding⟩
  halt := HaltState.clear
  cycleCount := 0
  instretCount := 0
  mem := []

/-- The machine right after reset (10 R54, R55), before a program image is loaded (log 4), under the configuration
`Config.example` (log 2, 3). -/
def State.reset : State := State.cleared Config.example Config.example.forwardingAtPowerOn

end Sys2Proof.Machine
end

