-- ==== Sys2Proof/Machine/Ops.lean ====
section
/-! DEFINITION. The named operations: registers (10 R31 to R34), memory (20 R80 to R87), the program load (70 R608 to R610), and the
one stop the core has, the halt (60 R503), which takes the place of an exception entry. There is no return from it (60 R504). -/

namespace Sys2Proof.Machine

/-! ### General registers -/

/-- A read of `x[r]`: the value it holds, and 0 for `x[0]` where it is hardwired (10 R32, R33). -/
def readReg (cfg : Config) (x : Vector Word 32) (r : RegIdx) : Word :=
  if cfg.x0HardwiredZero = true ∧ r = 0#5 then 0#32 else x.get r.toFin

/-- A write of `x[r]`. Register 0 is written like any other unless `x0HardwiredZero`, when its write is discarded
(10 R32, 40 R222). -/
def writeReg (cfg : Config) (x : Vector Word 32) (r : RegIdx) (v : Word) : Vector Word 32 :=
  if cfg.x0HardwiredZero = true ∧ r = 0#5 then x else x.set r.toNat v r.isLt

/-- `x[r]` of a state. -/
def State.reg (s : State) (r : RegIdx) : Word := readReg s.cfg s.x r

/-! ### Bytes of memory -/

/-- The byte at an address; an address not listed reads 0 (20 R98). -/
def Memory.readByte : Memory → Nat → Byte
  | [], _ => 0#8
  | (k, b) :: m, a => if k = a then b else Memory.readByte m a

/-- Sets the byte at an address, keeping the canonical form: rising addresses, no zero byte listed. -/
def Memory.writeByte : Memory → Nat → Byte → Memory
  | [], a, v => if v = 0#8 then [] else [(a, v)]
  | (k, b) :: m, a, v =>
    if a < k then (if v = 0#8 then (k, b) :: m else (a, v) :: (k, b) :: m)
    else if a = k then (if v = 0#8 then m else (a, v) :: m)
    else (k, b) :: Memory.writeByte m a v

/-- The canonical form: addresses strictly rising, no entry equal to what an unlisted address reads as. -/
def Memory.wf (m : Memory) : Bool :=
  decide (m.Pairwise fun p q => p.1 < q.1) && m.all fun c => c.2 != 0#8

/-! ### Regions (20 R81, R82) -/

/-- The region holds byte address `a` (20 R82). -/
def regionHolds (r : Region) (a : Nat) : Bool := decide (r.first.toNat ≤ a ∧ a ≤ r.last.toNat)

/-- Linear lookup: the first region of the list that holds `a`, `none` when `a` is out of range (20 R82). -/
def regionOf (cfg : Config) (a : Nat) : Option Region := cfg.regions.find? fun r => regionHolds r a

/-- `begin <= end`, `begin mod 4 = 0` and `(end + 1) mod 4 = 0` (20 R81). -/
def regionWf (r : Region) : Bool :=
  decide (r.first.toNat ≤ r.last.toNat ∧ r.first.toNat % 4 = 0 ∧ (r.last.toNat + 1) % 4 = 0)

/-- No byte is in both regions (20 R81). -/
abbrev regionsDisjoint (r q : Region) : Prop := r.last.toNat < q.first.toNat ∨ q.last.toNat < r.first.toNat

/-- A well-formed region list (20 R81; log 12). -/
def regionsWf (rs : List Region) : Bool :=
  rs.all regionWf && decide (rs.Pairwise regionsDisjoint)

/-- The word access at `a` reaches memory: aligned, and inside a region (20 R84, R85). -/
def accessible (cfg : Config) (a : Word) : Bool := decide (a.toNat % 4 = 0) && (regionOf cfg a.toNat).isSome

/-! ### Word accesses -/

/-- The four bytes from `a` up as a little-endian word, whatever `a` is. -/
def Memory.wordAt (m : Memory) (a : Nat) : Word :=
  wordOfBytes (m.readByte a) (m.readByte (a + 1)) (m.readByte (a + 2)) (m.readByte (a + 3))

/-- Stores the four bytes of `v` from `a` up, bits 7:0 at `a`, whatever `a` is. -/
def Memory.putWord (m : Memory) (a : Nat) (v : Word) : Memory :=
  (((m.writeByte a (byteOf v 0)).writeByte (a + 1) (byteOf v 1)).writeByte (a + 2) (byteOf v 2)).writeByte (a + 3) (byteOf v 3)

/-- `MemRead(a, 4)` of 20 R84: 0 where `a` is misaligned or out of range. -/
def memRead (cfg : Config) (m : Memory) (a : Word) : Word :=
  if accessible cfg a then m.wordAt a.toNat else 0#32

/-- `MemWrite(a, 4, v)` of 20 R85: nothing is written where `a` is misaligned or out of range. -/
def memWrite (cfg : Config) (m : Memory) (a v : Word) : Memory :=
  if accessible cfg a then m.putWord a.toNat v else m

/-- `MemRead(a, 4)` of a state. -/
def State.read (s : State) (a : Word) : Word := memRead s.cfg s.mem a

/-! ### The program load (70 R608 to R610) -/

/-- `MemWrite(a + 4*i, 4, w[i])` for every word of the image in turn (70 R608). -/
def loadWords (cfg : Config) : Memory → Word → List Word → Memory
  | m, _, [] => m
  | m, a, w :: ws => loadWords cfg (memWrite cfg m a w) (a + 4#32) ws

/-- The fit premise (70 R610): `textBase` aligned and inside a region, the last byte of the image inside that region. -/
def imageFits (cfg : Config) (ws : List Word) : Bool :=
  match regionOf cfg cfg.textBase.toNat with
  | some r => decide (cfg.textBase.toNat % 4 = 0 ∧ cfg.textBase.toNat + 4 * ws.length ≤ r.last.toNat + 1)
  | none => false

/-- `Reset()` of 70 R600 under a configuration, with the forwarding flag it leaves. It refuses an ill-formed region list
(20 R81), a missing image (70 R609) and an image that does not fit (70 R610), and then gives no state. -/
def resetWith (cfg : Config) (forwarding : Bool) : Host.Outcome State Fault Refusal :=
  if regionsWf cfg.regions then
    match cfg.image with
    | none => .refused .noProgram
    | some ws =>
      if imageFits cfg ws then
        .next { State.cleared cfg forwarding with mem := loadWords cfg [] cfg.textBase ws }
      else .refused .imageDoesNotFit
  else .refused .regionsIllFormed

/-! ### The halt (60 R503, 40 R286): the core's only stop -/

/-- The halt state a commit leaves for the cycle's halt event: unchanged without one, else halted with the reason and the
pc and word of the instruction in execute (40 R286). -/
def commitHalt (h : HaltState) (event : HaltReason) (d : IDEX) : HaltState :=
  if event = .noHalt then h else ⟨true, event, d.pc, d.word⟩

/-- The halt of run to completion at the sentinel (60 R522). -/
def haltAtSentinel (s : State) : State := { s with halt := ⟨true, .endSentinel, s.pc, 0#32⟩ }

end Sys2Proof.Machine
end

