-- ==== Sys2Proof/Machine/Operands.lean ====
section
/-! DEFINITION. Operand resolution: the forwarding unit and the hazard unit of decode (40 R255 to R260), the shift amount of the
register and immediate shifts, and the latch a word in execute reads its operands from. -/

namespace Sys2Proof.Machine

/-- The values that reach decode within the cycle (40 R208): the registers after writeback's write, and the latches execute
and memory have just produced. -/
structure Bypass where
  x : Vector Word 32
  exmem : EXMEM
  memwb : MEMWB
deriving DecidableEq, Repr

/-- The latch is a forwarding source for `r` (40 R256): it writes a register, its destination is `r`, and `r` is not 0. -/
def EXMEM.feeds (l : EXMEM) (r : RegIdx) : Bool := decide (l.regWrite = true ∧ l.rd ≠ 0#5 ∧ l.rd = r)

/-- As `EXMEM.feeds`, for the memory to writeback latch (40 R256). -/
def MEMWB.feeds (l : MEMWB) (r : RegIdx) : Bool := decide (l.regWrite = true ∧ l.rd ≠ 0#5 ∧ l.rd = r)

/-- `Operand(r)` (40 R256, R257): with forwarding, the newest latch that feeds `r`, EXMEM's ALU output first, then MEMWB's
memory data; otherwise, and without forwarding, the register. -/
def operand (cfg : Config) (forwarding : Bool) (b : Bypass) (r : RegIdx) : Word :=
  if forwarding = true ∧ b.exmem.feeds r = true then b.exmem.aluOut
  else if forwarding = true ∧ b.memwb.feeds r = true then b.memwb.memData
  else readReg cfg b.x r

/-- `Hit(EXMEM', r1, r2)` (40 R258). -/
def EXMEM.hits (l : EXMEM) (r1 r2 : RegIdx) : Bool := l.feeds r1 || l.feeds r2

/-- `Hit(MEMWB', r1, r2)` (40 R258). -/
def MEMWB.hits (l : MEMWB) (r1 r2 : RegIdx) : Bool := l.feeds r1 || l.feeds r2

/-- The hazard check of 40 R258 for a word: the rs1 and rs2 bits of every word, whatever its format (R255). -/
def hazard (b : Bypass) (w : Word) : Bool :=
  b.exmem.hits (rs1Of w) (rs2Of w) || b.memwb.hits (rs1Of w) (rs2Of w)

/-- Stall entry (40 R259): the EXMEM producer with 2 cycles left when it hits, else the MEMWB producer with 1. -/
def enterStall (st : StallState) (b : Bypass) (w : Word) : StallState :=
  if b.exmem.hits (rs1Of w) (rs2Of w) then
    { st with mode := .stalled, remaining := 2, prodOpcode := opcodeOf b.exmem.word, prodRd := b.exmem.rd }
  else
    { st with mode := .stalled, remaining := 1, prodOpcode := opcodeOf b.memwb.word, prodRd := b.memwb.rd }

/-- The latch decode passes for a word (40 R261): both operands resolved, whatever the format, and the immediate. -/
def passLatch (cfg : Config) (forwarding : Bool) (b : Bypass) (f : IFID) : IDEX where
  word := f.word
  pc := f.pc
  opA := operand cfg forwarding b (rs1Of f.word)
  opB := operand cfg forwarding b (rs2Of f.word)
  imm := immOf f.word

/-- The shift amount of a shift operand: its low five bits (41 R301, 30 R130; PRESUMED RV32I, log 8). -/
def shiftAmount (v : Word) : Nat := (v.extractLsb' 0 5).toNat

/-- A state whose next cycle has the word `w` in execute (log 14): the latch decode passes for `w` at address `s.pc`, its operands
read from the registers, with the mode decode leaves behind it (40 R261, R262), and the core not halted. -/
def issueWord (w : Word) (s : State) : State :=
  { s with
    idex := passLatch s.cfg false ⟨s.x, EXMEM.zero, MEMWB.zero⟩ ⟨w, s.pc⟩
    stall := { s.stall with mode := if isControl w then .branchBubble else .normal, remaining := 0 }
    halt := HaltState.clear }

end Sys2Proof.Machine
end

