-- ==== Sys2Proof/Machine/Stages.lean ====
section
/-! DEFINITION. The five stages and the commit: one cycle of the core (40 R206 to R287). Execute's part is an argument, since it is
the meaning of the instruction in execute. -/

namespace Sys2Proof.Machine

/-! ### Writeback (40 R220 to R226) -/

/-- The value writeback writes (40 R221): the loaded data for LW, the ALU output otherwise. -/
def writebackValue (l : MEMWB) : Word := if isLoad l.word then l.memData else l.aluOut

/-- The registers after writeback (40 R222, R223). -/
def writebackRegs (cfg : Config) (x : Vector Word 32) (l : MEMWB) : Vector Word 32 :=
  if l.regWrite then writeReg cfg x l.rd (writebackValue l) else x

/-- The retiring instruction is the recorded producer (40 R226). -/
def producerRetires (st : StallState) (l : MEMWB) : Bool :=
  decide (l.regWrite = true ∧ l.rd = st.prodRd ∧ opcodeOf l.word = st.prodOpcode)

/-- Writeback's stall logic: the countdown and the release by match (40 R225, R226). The subtraction stops at 0 (log 11). -/
def releaseStall (st : StallState) (l : MEMWB) : StallState :=
  match st.mode with
  | .stalled =>
    if st.remaining - 1 = 0 ∨ producerRetires st l = true then { st with mode := .normal, remaining := 0 }
    else { st with remaining := st.remaining - 1 }
  | .normal => st
  | .branchBubble => st

/-! ### Memory (40 R230 to R236) -/

/-- Memory after the memory stage: only SW writes (40 R232). -/
def memoryStageMem (cfg : Config) (m : Memory) (l : EXMEM) : Memory :=
  if isStore l.word then memWrite cfg m l.aluOut l.opB else m

/-- The `data` of the memory stage: the word read for LW, 0 for SW, else the ALU output (40 R231 to R233). -/
def memoryStageData (cfg : Config) (m : Memory) (l : EXMEM) : Word :=
  if isLoad l.word then memRead cfg m l.aluOut
  else if isStore l.word then 0#32
  else l.aluOut

/-- `MEMWB'` (40 R234). -/
def memoryStage (cfg : Config) (m : Memory) (l : EXMEM) : MEMWB where
  word := l.word
  aluOut := l.aluOut
  memData := memoryStageData cfg m l
  regWrite := l.regWrite
  rd := l.rd

/-! ### Execute's outputs (40 R240) -/

/-- What execute produces in a cycle: `EXMEM'`, the redirect with its target, and the halt event (`noHalt` for none). -/
structure ExecOut where
  exmem : EXMEM
  redirect : Bool
  target : Word
  haltEv : HaltReason
deriving DecidableEq, Repr

/-- A bubble with a halt event or none (40 R245, R246). -/
def ExecOut.bubble (event : HaltReason) : ExecOut := ⟨EXMEM.zero, false, 0#32, event⟩

/-- An instruction that writes `rd` with `aluOut` and does not redirect (40 R241, R243). -/
def ExecOut.writes (d : IDEX) (rd : RegIdx) (aluOut : Word) : ExecOut :=
  ⟨⟨d.word, d.opA, d.opB, aluOut, true, rd⟩, false, 0#32, .noHalt⟩

/-- An instruction that writes no register and does not redirect (40 R241, R243). -/
def ExecOut.silent (d : IDEX) (aluOut : Word) : ExecOut :=
  ⟨⟨d.word, d.opA, d.opB, aluOut, false, 0#5⟩, false, 0#32, .noHalt⟩

/-- A branch (44 R430): it redirects, taken or not, writes no register, and its `aluOut` is 0. -/
def ExecOut.branch (d : IDEX) (taken : Bool) : ExecOut :=
  ⟨⟨d.word, d.opA, d.opB, 0#32, false, 0#5⟩, true, if taken then d.pc + d.imm else d.pc + 4#32, .noHalt⟩

/-- A jump (44 R440): it writes the return address into `rd` and redirects to pc + imm. -/
def ExecOut.jump (d : IDEX) (rd : RegIdx) : ExecOut :=
  ⟨⟨d.word, d.opA, d.opB, d.pc + 4#32, true, rd⟩, true, d.pc + d.imm, .noHalt⟩

/-! ### Decode (40 R250 to R264) -/

/-- What decode produces in a cycle: `IDEX'`, the next stall state, and `hold` (40 R250). -/
structure DecodeOut where
  idex : IDEX
  stall : StallState
  hold : Bool
deriving DecidableEq, Repr

/-- Decode in Normal mode (40 R253 to R262): a NOP, a stall entry, or the word passed. -/
def decodeNormal (cfg : Config) (st : StallState) (b : Bypass) (f : IFID) : DecodeOut :=
  if f.word = 0#32 then ⟨IDEX.zero, st, false⟩
  else if st.forwarding = false ∧ hazard b f.word = true then ⟨IDEX.zero, enterStall st b f.word, true⟩
  else ⟨passLatch cfg st.forwarding b f, if isControl f.word then { st with mode := .branchBubble } else st, false⟩

/-- The decode stage, on the stall state as writeback left it (40 R251 to R254). -/
def decodeStage (cfg : Config) (st : StallState) (b : Bypass) (f : IFID) : DecodeOut :=
  match st.mode with
  | .branchBubble => ⟨IDEX.zero, { st with mode := .normal }, false⟩
  | .stalled => ⟨IDEX.zero, st, true⟩
  | .normal => decodeNormal cfg st b f

/-! ### Fetch (40 R275 to R279) -/

/-- The fetch address (40 R277): a redirect's target first (R278), then the held word, else the pc. -/
def fetchAddr (pc : Word) (e : ExecOut) (hold : Bool) : Word :=
  if e.redirect then e.target else if hold then pc - 4#32 else pc

/-! ### The whole cycle (40 R209) -/

/-- The values that pass to decode in the cycle of `s` whose execute output is `e` (40 R208). -/
def cycleBypass (s : State) (e : ExecOut) : Bypass where
  x := writebackRegs s.cfg s.x s.memwb
  exmem := e.exmem
  memwb := memoryStage s.cfg s.mem s.exmem

/-- Decode's outputs in the cycle of `s` whose execute output is `e`. -/
def cycleDecode (s : State) (e : ExecOut) : DecodeOut :=
  decodeStage s.cfg (releaseStall s.stall s.memwb) (cycleBypass s e) s.ifid

/-- The fetch address of the cycle of `s` whose execute output is `e`. -/
def cycleFetchAddr (s : State) (e : ExecOut) : Word := fetchAddr s.pc e (cycleDecode s e).hold

/-- Memory as the cycle's memory stage leaves it, which the cycle's fetch reads (20 R92). -/
def cycleMem (s : State) : Memory := memoryStageMem s.cfg s.mem s.exmem

/-- One cycle and its commit (40 R209, R285 to R287), given execute's output. `cfg`, `hi`, `lo` and the forwarding flag are kept. -/
def cycle (s : State) (e : ExecOut) : State where
  cfg := s.cfg
  x := writebackRegs s.cfg s.x s.memwb
  hi := s.hi
  lo := s.lo
  pc := cycleFetchAddr s e + 4#32
  ifid := ⟨memRead s.cfg (cycleMem s) (cycleFetchAddr s e), cycleFetchAddr s e⟩
  idex := (cycleDecode s e).idex
  exmem := e.exmem
  memwb := memoryStage s.cfg s.mem s.exmem
  stall := (cycleDecode s e).stall
  halt := commitHalt s.halt e.haltEv s.idex
  cycleCount := s.cycleCount + 1
  instretCount := s.instretCount + 1
  mem := cycleMem s

end Sys2Proof.Machine
end

