-- ==== Sys2Proof/Machine/AluImmediate.lean ====
section
/-! DEFINITION. The eight register-immediate instructions and LUI (42 R350 to R390): the cycle with the instruction in execute. Its operands
are the latched `IDEX.opA` and `IDEX.imm` (40 R241), which decode filled from rs1 and the immediate; `rd` is `IDEX.word[11:7]`
(40 R243; log 5). -/

namespace Sys2Proof.Machine

/-- ADDI: `opA + imm` (42 R352). -/
def execAddi (rd _rs1 : RegIdx) (_imm : BitVec 12) (s : State) : Host.Outcome State Fault Refusal :=
  .next (cycle s (.writes s.idex rd (s.idex.opA + s.idex.imm)))

/-- SLTI: `(s(opA) < s(imm)) ? 1 : 0` (42 R353). -/
def execSlti (rd _rs1 : RegIdx) (_imm : BitVec 12) (s : State) : Host.Outcome State Fault Refusal :=
  .next (cycle s (.writes s.idex rd (boolWord (condLt s.idex.opA s.idex.imm))))

/-- XORI: `opA XOR imm` (42 R354). -/
def execXori (rd _rs1 : RegIdx) (_imm : BitVec 12) (s : State) : Host.Outcome State Fault Refusal :=
  .next (cycle s (.writes s.idex rd (s.idex.opA ^^^ s.idex.imm)))

/-- ORI: `opA OR imm` (42 R355). -/
def execOri (rd _rs1 : RegIdx) (_imm : BitVec 12) (s : State) : Host.Outcome State Fault Refusal :=
  .next (cycle s (.writes s.idex rd (s.idex.opA ||| s.idex.imm)))

/-- ANDI: `opA AND imm` (42 R356). -/
def execAndi (rd _rs1 : RegIdx) (_imm : BitVec 12) (s : State) : Host.Outcome State Fault Refusal :=
  .next (cycle s (.writes s.idex rd (s.idex.opA &&& s.idex.imm)))

/-- SLLI: `opA << u(imm[4:0])` (42 R357). -/
def execSlli (rd _rs1 : RegIdx) (_shamt : BitVec 5) (s : State) : Host.Outcome State Fault Refusal :=
  .next (cycle s (.writes s.idex rd (s.idex.opA <<< shiftAmount s.idex.imm)))

/-- SRLI: `opA >>u u(imm[4:0])` (42 R358). -/
def execSrli (rd _rs1 : RegIdx) (_shamt : BitVec 5) (s : State) : Host.Outcome State Fault Refusal :=
  .next (cycle s (.writes s.idex rd (s.idex.opA >>> shiftAmount s.idex.imm)))

/-- SRAI: `opA >>s u(imm[4:0])`; the selector bits imm[11:5] are no part of the amount (42 R359). -/
def execSrai (rd _rs1 : RegIdx) (_shamt : BitVec 5) (s : State) : Host.Outcome State Fault Refusal :=
  .next (cycle s (.writes s.idex rd (s.idex.opA.sshiftRight (shiftAmount s.idex.imm))))

/-- LUI: `aluOut <- imm`; it writes `rd` only where `luiWritesRd` (42 R390, 90 C5). -/
def execLui (rd : RegIdx) (_imm : BitVec 20) (s : State) : Host.Outcome State Fault Refusal :=
  .next (cycle s (if s.cfg.luiWritesRd then .writes s.idex rd s.idex.imm else .silent s.idex s.idex.imm))

end Sys2Proof.Machine
end

