-- ==== Sys2Proof/Machine/AluRegister.lean ====
section
/-! DEFINITION. The ten register-register instructions (41 R300 to R312): the cycle with the instruction in execute. Its operands are the
latched `IDEX.opA` and `IDEX.opB` (40 R241), which decode resolved from rs1 and rs2; `rd` is `IDEX.word[11:7]` (40 R243; log 5). -/

namespace Sys2Proof.Machine

/-- ADD: `opA + opB`, modulo 2^32 (41 R302). -/
def execAdd (rd _rs1 _rs2 : RegIdx) (s : State) : Host.Outcome State Fault Refusal :=
  .next (cycle s (.writes s.idex rd (s.idex.opA + s.idex.opB)))

/-- SUB: `opA - opB`, modulo 2^32 (41 R303). -/
def execSub (rd _rs1 _rs2 : RegIdx) (s : State) : Host.Outcome State Fault Refusal :=
  .next (cycle s (.writes s.idex rd (s.idex.opA - s.idex.opB)))

/-- SLL: `opA << u(opB[4:0])`, zeros shifted in (41 R304). -/
def execSll (rd _rs1 _rs2 : RegIdx) (s : State) : Host.Outcome State Fault Refusal :=
  .next (cycle s (.writes s.idex rd (s.idex.opA <<< shiftAmount s.idex.opB)))

/-- SLT: `(s(opA) < s(opB)) ? 1 : 0` (41 R305). -/
def execSlt (rd _rs1 _rs2 : RegIdx) (s : State) : Host.Outcome State Fault Refusal :=
  .next (cycle s (.writes s.idex rd (boolWord (condLt s.idex.opA s.idex.opB))))

/-- SLTU: `(u(opA) < u(opB)) ? 1 : 0` (41 R306). -/
def execSltu (rd _rs1 _rs2 : RegIdx) (s : State) : Host.Outcome State Fault Refusal :=
  .next (cycle s (.writes s.idex rd (boolWord (condLtu s.idex.opA s.idex.opB))))

/-- XOR: `opA XOR opB`, bitwise (41 R307). -/
def execXor (rd _rs1 _rs2 : RegIdx) (s : State) : Host.Outcome State Fault Refusal :=
  .next (cycle s (.writes s.idex rd (s.idex.opA ^^^ s.idex.opB)))

/-- SRL: `opA >>u u(opB[4:0])`, zeros shifted in (41 R308). -/
def execSrl (rd _rs1 _rs2 : RegIdx) (s : State) : Host.Outcome State Fault Refusal :=
  .next (cycle s (.writes s.idex rd (s.idex.opA >>> shiftAmount s.idex.opB)))

/-- SRA: `opA >>s u(opB[4:0])`, copies of `opA[31]` shifted in (41 R309). -/
def execSra (rd _rs1 _rs2 : RegIdx) (s : State) : Host.Outcome State Fault Refusal :=
  .next (cycle s (.writes s.idex rd (s.idex.opA.sshiftRight (shiftAmount s.idex.opB))))

/-- OR: `opA OR opB`, bitwise (41 R310). -/
def execOr (rd _rs1 _rs2 : RegIdx) (s : State) : Host.Outcome State Fault Refusal :=
  .next (cycle s (.writes s.idex rd (s.idex.opA ||| s.idex.opB)))

/-- AND: `opA AND opB`, bitwise (41 R311). -/
def execAnd (rd _rs1 _rs2 : RegIdx) (s : State) : Host.Outcome State Fault Refusal :=
  .next (cycle s (.writes s.idex rd (s.idex.opA &&& s.idex.opB)))

end Sys2Proof.Machine
end

