-- ==== Sys2Proof/Machine/ControlTransfer.lean ====
section
/-! DEFINITION. The six branches and JAL (44 R430 to R440): the cycle with the instruction in execute. A branch redirects fetch in this same
cycle, taken or not (44 R430, 40 R277). -/

namespace Sys2Proof.Machine

/-- BEQ: taken when `opA == opB` (44 R432). -/
def execBeq (_rs1 _rs2 : RegIdx) (_off : BitVec 13) (s : State) : Host.Outcome State Fault Refusal :=
  .next (cycle s (.branch s.idex (condEq s.idex.opA s.idex.opB)))

/-- BNE: taken when `opA != opB` (44 R433). -/
def execBne (_rs1 _rs2 : RegIdx) (_off : BitVec 13) (s : State) : Host.Outcome State Fault Refusal :=
  .next (cycle s (.branch s.idex (condNe s.idex.opA s.idex.opB)))

/-- BLT: taken when `s(opA) < s(opB)` (44 R434). -/
def execBlt (_rs1 _rs2 : RegIdx) (_off : BitVec 13) (s : State) : Host.Outcome State Fault Refusal :=
  .next (cycle s (.branch s.idex (condLt s.idex.opA s.idex.opB)))

/-- BGE: taken when `s(opA) >= s(opB)` (44 R435). -/
def execBge (_rs1 _rs2 : RegIdx) (_off : BitVec 13) (s : State) : Host.Outcome State Fault Refusal :=
  .next (cycle s (.branch s.idex (condGe s.idex.opA s.idex.opB)))

/-- BLTU: taken when `u(opA) < u(opB)` (44 R436). -/
def execBltu (_rs1 _rs2 : RegIdx) (_off : BitVec 13) (s : State) : Host.Outcome State Fault Refusal :=
  .next (cycle s (.branch s.idex (condLtu s.idex.opA s.idex.opB)))

/-- BGEU: taken when `u(opA) >= u(opB)` (44 R437). -/
def execBgeu (_rs1 _rs2 : RegIdx) (_off : BitVec 13) (s : State) : Host.Outcome State Fault Refusal :=
  .next (cycle s (.branch s.idex (condGeu s.idex.opA s.idex.opB)))

/-- JAL: `rd` receives `pc + 4`, fetch goes to `pc + imm` (44 R440). -/
def execJal (rd : RegIdx) (_off : BitVec 21) (s : State) : Host.Outcome State Fault Refusal :=
  .next (cycle s (.jump s.idex rd))

end Sys2Proof.Machine
end

