-- ==== Sys2Proof/Machine/LoadStore.lean ====
section
/-! DEFINITION. LW and SW (43 R400, R405): the cycle with the instruction in execute, which computes the address. The access is made by
the memory stage of the next cycle (40 R231, R232), and LW's register is written by writeback in the cycle after (40 R222). -/

namespace Sys2Proof.Machine

/-- LW: `aluOut <- opA + imm`, the address; it writes `rd` (43 R400). -/
def execLw (rd _rs1 : RegIdx) (_imm : BitVec 12) (s : State) : Host.Outcome State Fault Refusal :=
  .next (cycle s (.writes s.idex rd (s.idex.opA + s.idex.imm)))

/-- SW: `aluOut <- opA + imm`, the address; `EXMEM.opB` carries the data; it writes no register (43 R405). -/
def execSw (_rs1 _rs2 : RegIdx) (_imm : BitVec 12) (s : State) : Host.Outcome State Fault Refusal :=
  .next (cycle s (.silent s.idex (s.idex.opA + s.idex.imm)))

end Sys2Proof.Machine
end

