-- ==== Sys2Proof/Machine/NopHalt.lean ====
section
/-! DEFINITION. The NOP word and the words that halt the core (45 R470 to R476): the cycle with the word in execute. -/

namespace Sys2Proof.Machine

/-- NOP: execute emits a bubble, and the rest of the cycle runs (45 R470, 40 R245). -/
def execNop (s : State) : Host.Outcome State Fault Refusal :=
  .next (cycle s (.bubble .noHalt))

/-- A word that cannot be executed (45 R474, R476; 40 R246): execute emits a bubble and the halt event, the rest of the cycle runs, and
its commit sets the halt state (40 R286). -/
def haltCycle (reason : HaltReason) (s : State) : Host.Outcome State Fault Refusal :=
  .next (cycle s (.bubble reason))

end Sys2Proof.Machine
end

