-- ==== Sys2Proof/Machine/Step.lean ====
section
/-! DEFINITION. One step: one cycle of the core (40 R206, R211). The instruction whose meaning it runs is the one in execute,
`IDEX.word` (40 R242); a halted core runs no cycle (40 R210). -/

namespace Sys2Proof.Machine

/-- One cycle. A halted core keeps its state (40 R210; log 7). Otherwise the class of `IDEX.word` decides: an instruction runs
its meaning, the other two classes halt the core (40 R242, R246). -/
def step (s : State) : Host.Outcome State Fault Refusal :=
  match s.halt.halted with
  | true => .next s
  | false =>
    match decodeWord s.idex.word with
    | .instr i => exec i s
    | .unrecognized => haltCycle .unrecognizedOpcode s
    | .unsupported => haltCycle .unsupportedFunct s

/-- `s` with the table's word where the next step takes the instruction it runs: in the execute stage's latch (log 14). -/
def State.withFetchWord (s : State) (nbits w : Nat) : State := issueWord (tableWord nbits w) s

end Sys2Proof.Machine
end

