-- ==== Sys2Proof/Machine/Commands.lean ====
section
/-! DEFINITION. The host interface (60 R520 to R531): every command of the console, run between cycles, with what it returns; and
power-on (70 R607). The console's parsing and its text formats are outside the block (00 R5). -/

namespace Sys2Proof.Machine

/-! ### Running cycles -/

/-- "step N" (60 R521): up to `n` cycles, stopping as soon as the core is halted. -/
def stepN : Nat → State → Host.Outcome State Fault Refusal
  | 0, s => .next s
  | n + 1, s =>
    if s.halt.halted then .next s
    else
      match step s with
      | .next t => stepN n t
      | .fault r => .fault r
      | .refused r => .refused r

/-- The sentinel check after a cycle of run to completion (60 R522): the core's own halt first (R505). -/
def checkSentinel (endPC : Word) (t : State) : State :=
  if t.halt.halted = false ∧ t.pc = endPC then haltAtSentinel t else t

/-- The loop of run to completion, with the fuel that bounds it (60 R522). -/
def runUntilHalt (endPC : Word) : Nat → State → Host.Outcome State Fault Refusal
  | 0, s => if s.halt.halted then .next s else .refused .noResult
  | fuel + 1, s =>
    if s.halt.halted then .next s
    else
      match step s with
      | .next t => runUntilHalt endPC fuel (checkSentinel endPC t)
      | .fault r => .fault r
      | .refused r => .refused r

/-- "run to completion" (60 R522); its precondition is a configured `endPC` (R520). -/
def runToCompletion (fuel : Nat) (s : State) : Host.Outcome State Fault Refusal :=
  match s.cfg.endPC with
  | none => .refused .endPCNotConfigured
  | some e => runUntilHalt e fuel s

/-! ### Commands that read -/

/-- One byte as the host sees it: 0 outside every region (60 R523). -/
def dumpByte (s : State) (a : Nat) : Byte := if (regionOf s.cfg a).isSome then s.mem.readByte a else 0#8

/-- "dump a memory range": `n` bytes from `a` up (60 R523). -/
def dumpMemory (s : State) (a n : Nat) : List Byte := (List.range n).map fun k => dumpByte s (a + k)

/-- "dump register file" (60 R525). -/
structure RegisterDump where
  x : List Word
  pc : Word
  hi : Word
  lo : Word
deriving DecidableEq, Repr

def dumpRegisters (s : State) : RegisterDump where
  x := (List.range 32).map fun k => readReg s.cfg s.x (BitVec.ofNat 5 k)
  pc := s.pc
  hi := s.hi
  lo := s.lo

/-- The three fields of the stall state of which 10 R52 gives the host no read. -/
structure StallRecord where
  remaining : Nat
  prodOpcode : Opcode
  prodRd : RegIdx
deriving DecidableEq, Repr

/-- "show the live contents of all four pipeline latches": every field of each latch, and the stall state (60 R529). -/
structure LatchView where
  ifid : IFID
  idex : IDEX
  exmem : EXMEM
  memwb : MEMWB
  mode : StallMode
  forwarding : Bool
  record : Option StallRecord
deriving DecidableEq, Repr

/-- All four latches and the stall state (60 R529). DESIGN CHOICE (log 21): the record of the producer is there under
`stallRecordShown`, as R529 says, and is left out otherwise, as the table of 10 R52 says; no ruling of spec/ settles which. -/
def showLatches (s : State) : LatchView where
  ifid := s.ifid
  idex := s.idex
  exmem := s.exmem
  memwb := s.memwb
  mode := s.stall.mode
  forwarding := s.stall.forwarding
  record := if s.cfg.stallRecordShown then some ⟨s.stall.remaining, s.stall.prodOpcode, s.stall.prodRd⟩ else none

/-- The control state the host can read: each field to which the table of 10 R52 gives host access, the counters of 60 R512 and
the halt record of 60 R504 among them. -/
structure ControlView where
  mode : StallMode
  forwarding : Bool
  halted : Bool
  haltReason : HaltReason
  haltPC : Word
  haltWord : Word
  cycleCount : Nat
  instretCount : Nat
deriving DecidableEq, Repr

/-- The host's read of the control state, between cycles (10 R52, 60 R504, R512). DESIGN CHOICE (log 22): it stands beside the
commands and is none of them, since 60 R530 closes their list and no command of R520's table returns these fields. -/
def readControl (s : State) : ControlView where
  mode := s.stall.mode
  forwarding := s.stall.forwarding
  halted := s.halt.halted
  haltReason := s.halt.reason
  haltPC := s.halt.pc
  haltWord := s.halt.word
  cycleCount := s.cycleCount
  instretCount := s.instretCount

/-- One line of the disassembly: the address, the word there, its fields and its class (60 R528). Its text is outside the block. -/
structure Line where
  addr : Word
  word : Word
  fields : Fields
  decoded : Decoded
deriving DecidableEq, Repr

def disassembleWord (s : State) (a : Word) : Line :=
  ⟨a, memRead s.cfg s.mem a, decodeFields (memRead s.cfg s.mem a), decodeWord (memRead s.cfg s.mem a)⟩

/-- "disassemble": `n` words from `a` up (60 R528). -/
def disassemble (s : State) (a : Word) (n : Nat) : List Line :=
  (List.range n).map fun k => disassembleWord s (a + BitVec.ofNat 32 (4 * k))

/-! ### The block's outputs (40 R200) -/

/-- The outputs of the block in one cycle (40 R200), but for those of the host port. -/
structure PortOutputs where
  fetchAddr : Word
  dataAddr : Word
  dataRead : Bool
  dataWrite : Bool
  dataWData : Word
  halted : Bool
deriving DecidableEq, Repr

/-- The outputs in the cycle that runs from `s`: the fetch address of the cycle, and the access of the instruction in the memory
stage; `halted` as it stands before the cycle. A halted core runs no cycle, and then only `halted` has a meaning. -/
def portOutputs (s : State) : PortOutputs where
  fetchAddr :=
    match step s with
    | .next t => t.ifid.pc
    | .fault _ => s.ifid.pc
    | .refused _ => s.ifid.pc
  dataAddr := s.exmem.aluOut
  dataRead := isLoad s.exmem.word
  dataWrite := isStore s.exmem.word
  dataWData := s.exmem.opB
  halted := s.halt.halted

/-! ### Commands that write -/

/-- "set a register" (60 R524): any index; a set of `x[0]` is ignored where it is hardwired. -/
def setRegister (r : RegIdx) (v : Word) (s : State) : State := { s with x := writeReg s.cfg s.x r v }

/-- "set the HI value" (60 R524, 10 R41). -/
def setHI (v : Word) (s : State) : State := { s with hi := v }

/-- "set the LO value" (60 R524, 10 R41). -/
def setLO (v : Word) (s : State) : State := { s with lo := v }

/-- "toggle forwarding on/off" (60 R526): a stall in progress goes on (40 R263). -/
def toggleForwarding (s : State) : State := { s with stall := { s.stall with forwarding := !s.stall.forwarding } }

/-- "reset" (60 R527, 70 R600): the configuration and the forwarding flag are kept. -/
def reset (s : State) : Host.Outcome State Fault Refusal := resetWith s.cfg s.stall.forwarding

/-- Power-on under a configuration (70 R607, 10 R55). -/
def powerOn (cfg : Config) : Host.Outcome State Fault Refusal := resetWith cfg cfg.forwardingAtPowerOn

/-! ### The command surface -/

/-- The commands of 60 R520 with their arguments. -/
inductive Command where
  | stepCycles (n : Nat)
  | runToCompletion (fuel : Nat)
  | dumpMemory (a n : Nat)
  | setRegister (r : RegIdx) (v : Word)
  | setHI (v : Word)
  | setLO (v : Word)
  | dumpRegisters
  | toggleForwarding
  | reset
  | disassemble (a : Word) (n : Nat)
  | showLatches
deriving DecidableEq, Repr

/-- What a command returns (60 R520, its last column). The counters, `haltPC` and `haltWord` are in none of these: the host reads
them by `readControl` (10 R52, 60 R512; DESIGN CHOICE, log 22). -/
inductive Reply where
  | nothing
  | cyclesRun (n : Nat)
  | halted (r : HaltReason)
  | bytes (bs : List Byte)
  | registers (d : RegisterDump)
  | forwarding (on : Bool)
  | loaded
  | listing (ls : List Line)
  | latches (v : LatchView)
deriving DecidableEq, Repr

/-- The state a command leaves (60 R520, its writes column); the commands that only read leave it as it is. -/
def Command.run (c : Command) (s : State) : Host.Outcome State Fault Refusal :=
  match c with
  | .stepCycles n => stepN n s
  | .runToCompletion fuel => Sys2Proof.Machine.runToCompletion fuel s
  | .dumpMemory _ _ => .next s
  | .setRegister r v => .next (Sys2Proof.Machine.setRegister r v s)
  | .setHI v => .next (Sys2Proof.Machine.setHI v s)
  | .setLO v => .next (Sys2Proof.Machine.setLO v s)
  | .dumpRegisters => .next s
  | .toggleForwarding => .next (Sys2Proof.Machine.toggleForwarding s)
  | .reset => Sys2Proof.Machine.reset s
  | .disassemble _ _ => .next s
  | .showLatches => .next s

/-- What a command that ran from `s` and left `t` returns (60 R520). -/
def Command.reply (c : Command) (s t : State) : Reply :=
  match c with
  | .stepCycles _ => .cyclesRun (t.cycleCount - s.cycleCount)
  | .runToCompletion _ => .halted t.halt.reason
  | .dumpMemory a n => .bytes (Sys2Proof.Machine.dumpMemory s a n)
  | .setRegister _ _ => .nothing
  | .setHI _ => .nothing
  | .setLO _ => .nothing
  | .dumpRegisters => .registers (Sys2Proof.Machine.dumpRegisters s)
  | .toggleForwarding => .forwarding t.stall.forwarding
  | .reset => .loaded
  | .disassemble a n => .listing (Sys2Proof.Machine.disassemble s a n)
  | .showLatches => .latches (Sys2Proof.Machine.showLatches s)

end Sys2Proof.Machine
end

