-- ==== Sys2Proof/Safety.lean ====
section
/-! DEFINITION. The terms claims use: the invariant of the machine, the states a run can reach, what a whole cycle does, and what it
means that an instruction in execute writes its result. -/

namespace Sys2Proof.Machine

/-! ### The invariant -/

/-- The word writes a register (40 R243): every instruction with a destination, LUI only where `luiWritesRd`. -/
def writesRegister (cfg : Config) (w : Word) : Bool :=
  match decodeWord w with
  | .instr (.lui _ _) => cfg.luiWritesRd
  | .instr i => i.dest?.isSome
  | .unrecognized => false
  | .unsupported => false

/-- `remaining` is 1 or 2 while stalled and 0 otherwise (10 R48). -/
def StallOk (st : StallState) : Prop :=
  (st.mode = .stalled → st.remaining = 1 ∨ st.remaining = 2) ∧ (st.mode ≠ .stalled → st.remaining = 0)

/-- RegWrite and destination are those of the word, and 0 for a word that writes no register (40 R243). -/
def DestOk (cfg : Config) (word : Word) (regWrite : Bool) (rd : RegIdx) : Prop :=
  regWrite = writesRegister cfg word ∧ rd = if writesRegister cfg word then rdOf word else 0#5

/-- The halt record: clear while running, with a reason once halted (10 R50, 60 R502). -/
def HaltOk (h : HaltState) : Prop :=
  (h.halted = false → h = HaltState.clear) ∧ (h.halted = true → h.reason ≠ .noHalt)

/-- What every state of a run meets. -/
structure Invariant (s : State) : Prop where
  /-- The region list is well-formed (20 R81). -/
  regions : regionsWf s.cfg.regions = true
  /-- Memory is in canonical form. -/
  memWf : s.mem.wf = true
  /-- Memory lists only addresses inside a region (20 R84, R85). -/
  memMapped : ∀ c ∈ s.mem, (regionOf s.cfg c.1).isSome = true
  /-- The countdown (10 R48). -/
  stallOk : StallOk s.stall
  /-- A control word is in execute exactly when the mode is BranchBubble (40 R291). -/
  control : s.stall.mode = .branchBubble ↔ isControl s.idex.word = true
  /-- While stalled, execute holds a bubble (40 R252, R260). -/
  stalledBubble : s.stall.mode = .stalled → s.idex = IDEX.zero
  /-- The latched immediate is that of the word (40 R261). -/
  idexImm : s.idex.imm = immOf s.idex.word
  /-- The destination of the word in the memory stage (40 R243). -/
  exmemDest : DestOk s.cfg s.exmem.word s.exmem.regWrite s.exmem.rd
  /-- The destination of the word in writeback (40 R234, R243). -/
  memwbDest : DestOk s.cfg s.memwb.word s.memwb.regWrite s.memwb.rd
  /-- What writeback writes always equals `MEMWB.memData` (40 R221). -/
  memwbData : s.memwb.regWrite = true → writebackValue s.memwb = s.memwb.memData
  /-- The pc is the fetch address plus 4, from the first cycle on (40 R290). -/
  pcFollows : s.cycleCount ≠ 0 → s.pc = s.ifid.pc + 4#32
  /-- The halt record. -/
  haltOk : HaltOk s.halt
  /-- The two counters are equal (10 R51). -/
  counters : s.instretCount = s.cycleCount

/-- The states a run can reach: power-on under some configuration, then cycles and host commands (60 R530). -/
inductive Reachable : State → Prop where
  | powerOn {cfg : Config} {s : State} (h : powerOn cfg = .next s) : Reachable s
  | step {s t : State} (hs : Reachable s) (h : step s = .next t) : Reachable t
  | command {s t : State} (c : Command) (hs : Reachable s) (h : c.run s = .next t) : Reachable t

/-! ### What a whole cycle does, whatever is in execute -/

/-- The write of `x[rd]` is discarded: register 0 where it is hardwired (10 R32). -/
def writeDiscarded (cfg : Config) (rd : RegIdx) : Prop := cfg.x0HardwiredZero = true ∧ rd = 0#5

/-- `t` has the registers of `s`, but for `rd`, which holds `v` unless its write is discarded. -/
def WritesOnly (s t : State) (rd : RegIdx) (v : Word) : Prop :=
  (¬ writeDiscarded s.cfg rd → t.reg rd = v) ∧ (writeDiscarded s.cfg rd → t.reg rd = 0#32) ∧
    ∀ q, q ≠ rd → t.reg q = s.reg q

/-- The registers are the same. -/
def SameRegs (s t : State) : Prop := ∀ q, t.reg q = s.reg q

/-- The commits of one cycle other than the instruction in execute's own: writeback, the memory stage, fetch, the
counters, and what no cycle writes (40 R222, R223, R231 to R234, R285, R287). -/
structure WholeCycle (s t : State) : Prop where
  cfg : t.cfg = s.cfg
  /-- Writeback writes the one register of a writing latch (40 R221, R222). -/
  regs : s.memwb.regWrite = true →
    WritesOnly s t s.memwb.rd (if isLoad s.memwb.word then s.memwb.memData else s.memwb.aluOut)
  /-- Writeback of any other latch writes none (40 R223). -/
  noRegs : s.memwb.regWrite = false → SameRegs s t
  hi : t.hi = s.hi
  lo : t.lo = s.lo
  forwarding : t.stall.forwarding = s.stall.forwarding
  /-- `MEMWB'` is the memory stage's word with its data (40 R231 to R234). -/
  memwb : t.memwb =
    { word := s.exmem.word, aluOut := s.exmem.aluOut, regWrite := s.exmem.regWrite, rd := s.exmem.rd,
      memData := if isLoad s.exmem.word then s.read s.exmem.aluOut else if isStore s.exmem.word then 0#32 else s.exmem.aluOut }
  /-- Only SW in the memory stage writes memory, at the address in `EXMEM.aluOut` (40 R232). -/
  stored : isStore s.exmem.word = true → t.mem = memWrite s.cfg s.mem s.exmem.aluOut s.exmem.opB
  /-- Every byte outside the word stored to reads as before. -/
  memFrame : ∀ a, a < s.exmem.aluOut.toNat ∨ s.exmem.aluOut.toNat + 4 ≤ a → t.mem.readByte a = s.mem.readByte a
  /-- All of memory reads as before where no SW is in the memory stage. -/
  memSame : isStore s.exmem.word = false → ∀ a, t.mem.readByte a = s.mem.readByte a
  /-- Fetch reads memory as the memory stage left it, and the pc follows (20 R92, 40 R277). -/
  fetched : t.ifid.word = t.read t.ifid.pc
  pc : t.pc = t.ifid.pc + 4#32
  cycleCount : t.cycleCount = s.cycleCount + 1
  instretCount : t.instretCount = s.instretCount + 1

/-- Fetch is not redirected: it re-fetches the held word while stalled, and goes on at the pc otherwise (40 R277). -/
def FetchesOn (s t : State) : Prop := t.ifid.pc = if t.stall.mode = .stalled then s.pc - 4#32 else s.pc

/-- Fetch is redirected to `target` (40 R277). -/
def FetchesAt (t : State) (target : Word) : Prop := t.ifid.pc = target ∧ t.pc = target + 4#32

/-! ### An instruction's own effect -/

/-- `w` is the word in execute of a running core, with its immediate latched as decode latches it (40 R261). -/
structure InExecute (w : Word) (s : State) : Prop where
  running : s.halt.halted = false
  word : s.idex.word = w
  imm : s.idex.imm = immOf w

/-- The step runs the meaning of `i`, which answers `t`: a whole cycle, no halt, with `EXMEM'` as given. -/
structure Completes (i : Instr) (s t : State) (aluOut : Word) (regWrite : Bool) (rd : RegIdx) : Prop where
  exec : exec i s = .next t
  step : step s = .next t
  cycle : WholeCycle s t
  halt : t.halt = s.halt
  exmem : t.exmem = ⟨s.idex.word, s.idex.opA, s.idex.opB, aluOut, regWrite, rd⟩

/-- The cycles after: the latch goes through the memory stage, and unless the core halts meanwhile (45 R475), writeback writes the
register `rd` with `data`, the memory stage's data, and no other (40 R222). -/
def RetiresWith (t : State) (rd : RegIdx) (data : Word) : Prop :=
  ∃ u, step t = .next u ∧ u.memwb.memData = data ∧
    (u.halt.halted = false → ∃ v, step u = .next v ∧ WritesOnly u v rd data)

/-- The same for an instruction that writes no register. -/
def RetiresSilently (t : State) : Prop :=
  ∃ u, step t = .next u ∧ (u.halt.halted = false → ∃ v, step u = .next v ∧ SameRegs u v)

/-- `i` in execute computes `v`, and retires with it into `rd`; it does not redirect fetch. -/
def WritesResult (i : Instr) (s : State) (rd : RegIdx) (v : Word) : Prop :=
  ∃ t, Completes i s t v true rd ∧ FetchesOn s t ∧ RetiresWith t rd v

/-- `i` in execute redirects fetch to `target` in this cycle and writes no register (44 R430). -/
def BranchesTo (i : Instr) (s : State) (target : Word) : Prop :=
  ∃ t, Completes i s t 0#32 false 0#5 ∧ FetchesAt t target ∧ RetiresSilently t

/-! ### Hazards, in terms of the latches a cycle leaves (40 R256, R258) -/

/-- The latch `EXMEM` writes the register `r`, and `r` is not 0. -/
def EXMEM.Writes (l : EXMEM) (r : RegIdx) : Prop := l.regWrite = true ∧ l.rd ≠ 0#5 ∧ l.rd = r

/-- The latch `MEMWB` writes the register `r`, and `r` is not 0. -/
def MEMWB.Writes (l : MEMWB) (r : RegIdx) : Prop := l.regWrite = true ∧ l.rd ≠ 0#5 ∧ l.rd = r

/-- Decode sees Normal mode in the cycle of `s`, after writeback's stall logic (40 R250). -/
def DecodesNormally (s : State) : Prop := (releaseStall s.stall s.memwb).mode = .normal

/-- The word in decode reads `r` in one of its two source fields (40 R255). -/
def Reads (w : Word) (r : RegIdx) : Prop := rs1Of w = r ∨ rs2Of w = r

end Sys2Proof.Machine
end

