-- ==== Sys2Proof/Certificates/Slice0/Obligations.lean ====
section
/-! DEFINITION. The statements about the machine, from the numbered rules of spec/. -/

open Sys2Proof Sys2Proof.Machine

/-! ### Encoding -/

/-- Decoding the word of a well-formed instruction gives it back, with every operand at every value (30 R123, R132, R136). Rests on
the spec's own choices D4, D5, D7, D42 (log 9); the spec's own derivations R123, R136; the model's log 8, 15. -/
def Obligations.DecodeOfEncode : Prop :=
  ∀ i : Instr, i.wellFormed = true → decodeWord (encode i) = .instr i

/-- Every word that decodes to an instruction is the word of that instruction, and the instruction is well-formed: no bit of a
recognized word is ignored (30 R123, R132). Rests on the spec's own choices D4, D5, D42 (log 9); the spec's own derivations
R123, R136; the model's log 8, 15. -/
def Obligations.EncodeOfDecode : Prop :=
  ∀ (w : Word) (i : Instr), decodeWord w = .instr i → encode i = w ∧ i.wellFormed = true

/-- A word is an instruction exactly when it lies in a row of the opcode table, and then in the row of that instruction (30 R132,
R136). Rests on the spec's own choices D4, D5, D42 (log 9); the spec's own derivations R136; the model's log 8, 15. -/
def Obligations.DecodesByTableRows : Prop :=
  ∀ w : Word, ((∃ i, decodeWord w = .instr i) ↔ ∃ i, w &&& (rowOf i).mask = (rowOf i).value) ∧
    ∀ i, decodeWord w = .instr i → w &&& (rowOf i).mask = (rowOf i).value

/-- The recognized opcodes (30 R131); every other non-zero word is unrecognized (30 R134), the opcodes of AUIPC, JALR, MISC-MEM,
SYSTEM and AMO among them, and the word 0 is not (30 R133). Rests on the spec's own choices D4, D5, D7 (log 9); the model's log
8. -/
def Obligations.UnrecognizedByOpcode : Prop :=
  (∀ w : Word, decodeWord w = .unrecognized ↔ w ≠ 0#32 ∧ opcodeOf w ∉
    [0b0110011#7, 0b0010011#7, 0b0000011#7, 0b0100011#7, 0b1100011#7, 0b1101111#7, 0b0110111#7]) ∧
  ∀ w : Word, opcodeOf w ∈ [0b0010111#7, 0b1100111#7, 0b0001111#7, 0b1110011#7, 0b0101111#7] →
    decodeWord w = .unrecognized

/-- The unsupported combinations of 30 R135, by opcode, funct3 and funct7. Rests on the spec's own choices D6, D42 (log 9); the
model's log 8, 15. -/
def Obligations.UnsupportedByFunctions : Prop :=
  ∀ w : Word, decodeWord w = .unsupported ↔
    (opcodeOf w = 0b0110011#7 ∧ funct7Of w ≠ 0b0000000#7 ∧
      (funct7Of w = 0b0100000#7 → funct3Of w ≠ 0b000#3 ∧ funct3Of w ≠ 0b101#3)) ∨
    (opcodeOf w = 0b0010011#7 ∧ (funct3Of w = 0b011#3 ∨ (funct3Of w = 0b001#3 ∧ funct7Of w ≠ 0b0000000#7) ∨
      (funct3Of w = 0b101#3 ∧ funct7Of w ≠ 0b0000000#7 ∧ funct7Of w ≠ 0b0100000#7))) ∨
    (opcodeOf w = 0b0000011#7 ∧ funct3Of w ≠ 0b010#3) ∨
    (opcodeOf w = 0b0100011#7 ∧ funct3Of w ≠ 0b010#3) ∨
    (opcodeOf w = 0b1100011#7 ∧ (funct3Of w = 0b010#3 ∨ funct3Of w = 0b011#3))

/-- One word of each family, written out from the spec's examples, decodes to its instruction, and one word of each rejected kind to
its rejection (41 R302, R309; 42 R352, R359, R390; 43 R400, R405; 44 R432, R440; 45 R470, R474, R476). Rests on the spec's own
choices D5, D6, D7, D8, D10, D11, D12, D13, D19, D34, D36, D42 (log 9); the model's log 8, 10, 15, 19. -/
def Obligations.SampleWordsDecode : Prop :=
  decodeWord 0x002081B3#32 = .instr (.add 3#5 1#5 2#5) ∧ decodeWord 0x4020D1B3#32 = .instr (.sra 3#5 1#5 2#5) ∧
  decodeWord 0xFFF08193#32 = .instr (.addi 3#5 1#5 0xFFF#12) ∧ decodeWord 0x4040D193#32 = .instr (.srai 3#5 1#5 4#5) ∧
  decodeWord 0x123452B7#32 = .instr (.lui 5#5 0x12345#20) ∧ decodeWord 0xFFC0A283#32 = .instr (.lw 5#5 1#5 0xFFC#12) ∧
  decodeWord 0x0020A223#32 = .instr (.sw 1#5 2#5 4#12) ∧ decodeWord 0xFE208CE3#32 = .instr (.beq 1#5 2#5 0x1FF8#13) ∧
  decodeWord 0xFF1FF0EF#32 = .instr (.jal 1#5 0x1FFFF0#21) ∧ decodeWord 0x00000000#32 = .instr .nop ∧
  decodeWord 0x0000007F#32 = .unrecognized ∧ decodeWord 0x0010B193#32 = .unsupported

/-- The branch and jump offsets round-trip through the word (30 R140). -/
def Obligations.OffsetsRoundTrip : Prop :=
  (∀ (f3 : BitVec 3) (rs1 rs2 : RegIdx) (o : BitVec 13), o.getLsbD 0 = false → offBOf (encB f3 rs1 rs2 o) = o) ∧
  (∀ (rd : RegIdx) (o : BitVec 21), o.getLsbD 0 = false → offJOf (encJ rd o) = o)

/-- The immediate decode latches for an encoded word: sign-extended for I, S, B and J, the upper 20 bits for U, 0 for R and the NOP;
a shift's carries its selector bits (30 R124 to R130). Rests on the spec's own choices D13, D19, D39, D42 (log 9); the model's
log 8, 15, 19. -/
def Obligations.ImmediatesOfEncodedWords : Prop :=
  (∀ f3 rd rs1 imm, (immOf (encI opOPIMM f3 rd rs1 imm)).toInt = imm.toInt) ∧
  (∀ f3 rd rs1 imm, (immOf (encI opLOAD f3 rd rs1 imm)).toInt = imm.toInt) ∧
  (∀ rs1 rs2 imm, (immOf (encS rs1 rs2 imm)).toInt = imm.toInt) ∧
  (∀ f3 rs1 rs2 off, evenOffset off = true → (immOf (encB f3 rs1 rs2 off)).toInt = off.toInt) ∧
  (∀ rd off, evenOffset off = true → (immOf (encJ rd off)).toInt = off.toInt) ∧
  (∀ rd imm, (immOf (encU rd imm)).toNat = imm.toNat * 4096) ∧
  (∀ f7 f3 rd rs1 shamt, (immOf (encShift f7 f3 rd rs1 shamt)).toNat % 32 = shamt.toNat) ∧
  (∀ f7 f3 rd rs1 rs2, immOf (encR f7 f3 rd rs1 rs2) = 0#32) ∧ immOf 0#32 = 0#32

/-! ### Memory -/

/-- `MemRead` (20 R84): 0 for a misaligned address and for one in no region, else the four bytes, little-endian. -/
def Obligations.MemReadRule : Prop :=
  ∀ (cfg : Config) (m : Memory) (a : Word),
    (a.toNat % 4 ≠ 0 → memRead cfg m a = 0#32) ∧
    ((∀ r ∈ cfg.regions, ¬ (r.first.toNat ≤ a.toNat ∧ a.toNat ≤ r.last.toNat)) → memRead cfg m a = 0#32) ∧
    (a.toNat % 4 = 0 → (∃ r ∈ cfg.regions, r.first.toNat ≤ a.toNat ∧ a.toNat ≤ r.last.toNat) →
      memRead cfg m a =
        m.readByte (a.toNat + 3) ++ m.readByte (a.toNat + 2) ++ m.readByte (a.toNat + 1) ++ m.readByte a.toNat)

/-- `MemWrite` (20 R85): nothing for a misaligned address and for one in no region; else bits 7:0 to 31:24 of the value at `a` to `a
+ 3`, and no other byte. -/
def Obligations.MemWriteRule : Prop :=
  ∀ (cfg : Config) (m : Memory) (a v : Word), m.wf = true →
    (a.toNat % 4 ≠ 0 → memWrite cfg m a v = m) ∧
    ((∀ r ∈ cfg.regions, ¬ (r.first.toNat ≤ a.toNat ∧ a.toNat ≤ r.last.toNat)) → memWrite cfg m a v = m) ∧
    (a.toNat % 4 = 0 → (∃ r ∈ cfg.regions, r.first.toNat ≤ a.toNat ∧ a.toNat ≤ r.last.toNat) →
      (memWrite cfg m a v).readByte a.toNat = v.extractLsb' 0 8 ∧
      (memWrite cfg m a v).readByte (a.toNat + 1) = v.extractLsb' 8 8 ∧
      (memWrite cfg m a v).readByte (a.toNat + 2) = v.extractLsb' 16 8 ∧
      (memWrite cfg m a v).readByte (a.toNat + 3) = v.extractLsb' 24 8) ∧
    ∀ b, b < a.toNat ∨ a.toNat + 4 ≤ b → (memWrite cfg m a v).readByte b = m.readByte b

/-- A word read after a word write at the same in-range aligned address is the value written; elsewhere the read is 0 (20 R87).
Rests on the spec's own derivations R87. -/
def Obligations.ReadAfterWrite : Prop :=
  ∀ (cfg : Config) (m : Memory) (a v : Word), m.wf = true →
    memRead cfg (memWrite cfg m a v) a =
      if a.toNat % 4 = 0 ∧ ∃ r ∈ cfg.regions, r.first.toNat ≤ a.toNat ∧ a.toNat ≤ r.last.toNat then v else 0#32

/-- Two memories in canonical form whose bytes are equal are equal (the model's own form of memory, log 6). Rests on the model's log
6. -/
def Obligations.EqualBytesEqualMemories : Prop :=
  ∀ m n : Memory, m.wf = true → n.wf = true → (∀ a, m.readByte a = n.readByte a) → m = n

/-! ### The step -/

/-- A step runs the instruction in execute, or halts the core on a word that cannot be executed (40 R242). Rests on the spec's own
choices D5, D6, D8, D34, D42 (log 9); the model's log 5, 15. -/
def Obligations.StepRunsWordInExecute : Prop :=
  ∀ s : State, s.halt.halted = false →
    (∀ i, decodeWord s.idex.word = .instr i → step s = exec i s) ∧
    (decodeWord s.idex.word = .unrecognized → step s = haltCycle .unrecognizedOpcode s) ∧
    (decodeWord s.idex.word = .unsupported → step s = haltCycle .unsupportedFunct s)

/-- Every step answers a next state: the core raises no exception and takes no trap (60 R500), and nothing is refused. Rests on the
spec's own choices D29 (log 9); the model's log 7. -/
def Obligations.EveryStepAnswersNext : Prop := ∀ s : State, ∃ t, step s = .next t

/-- No cycle runs while halted, and no command but reset clears the halt (40 R210). Rests on the spec's own choices D29 (log 9); the
model's log 7. -/
def Obligations.OnlyResetClearsHalt : Prop :=
  ∀ s : State, s.halt.halted = true → step s = .next s ∧
    ∀ (c : Command) (t : State), c ≠ .reset → c.run s = .next t → t.halt = s.halt

/-- Every instruction in execute answers a next state, after a whole cycle, without a halt (40 R206, R241, R285, R287). Rests on the
spec's own choices D9, D10, D11, D12, D23, D41 (log 9); the spec's own derivations R221; the model's log 5, 10, 19. -/
def Obligations.EveryInstructionRunsWholeCycle : Prop :=
  ∀ (i : Instr) (s : State), ∃ t, exec i s = .next t ∧ WholeCycle s t ∧ t.halt = s.halt

/-- A cycle halts the core exactly when the word in execute is no instruction (60 R501). Rests on the spec's own choices D6, D8, D31
(log 9); the model's log 15. -/
def Obligations.HaltsExactlyOnRejectedWords : Prop :=
  ∀ s t : State, s.halt.halted = false → step s = .next t →
    (t.halt.halted = true ↔ ∀ i, decodeWord s.idex.word ≠ .instr i)

/-- What a halting word leaves: a bubble in `EXMEM`, no redirect, the halt record with its reason, pc and word, and the rest of the
cycle done (40 R246, R286; 45 R474, R476). Rests on the spec's own choices D5, D6, D8, D9, D10, D11, D12, D23, D34, D41, D42
(log 9); the model's log 10, 15, 19. -/
def Obligations.HaltRecord : Prop :=
  ∀ s : State, s.halt.halted = false →
    (decodeWord s.idex.word = .unrecognized → ∃ t, step s = .next t ∧ WholeCycle s t ∧ FetchesOn s t ∧
      t.exmem = EXMEM.zero ∧ t.halt = ⟨true, .unrecognizedOpcode, s.idex.pc, s.idex.word⟩) ∧
    (decodeWord s.idex.word = .unsupported → ∃ t, step s = .next t ∧ WholeCycle s t ∧ FetchesOn s t ∧
      t.exmem = EXMEM.zero ∧ t.halt = ⟨true, .unsupportedFunct, s.idex.pc, s.idex.word⟩)

/-- The halt drain (45 R475): with a halting word in execute, the instruction in writeback completes its register write, the one in
the memory stage its memory access, but its register result stays in `MEMWB` however many steps follow. Rests on the spec's own
choices D8, D9, D11, D12 (log 9); the spec's own derivations R475; the model's log 7, 10, 19. -/
def Obligations.HaltDrain : Prop :=
  ∀ s : State, s.halt.halted = false → (∀ i, decodeWord s.idex.word ≠ .instr i) →
    ∃ t, step s = .next t ∧
      t.memwb =
        { word := s.exmem.word, aluOut := s.exmem.aluOut, regWrite := s.exmem.regWrite, rd := s.exmem.rd,
          memData :=
            if isLoad s.exmem.word then s.read s.exmem.aluOut else if isStore s.exmem.word then 0#32 else s.exmem.aluOut } ∧
      (isStore s.exmem.word = true → t.mem = memWrite s.cfg s.mem s.exmem.aluOut s.exmem.opB) ∧
      (s.memwb.regWrite = true →
        WritesOnly s t s.memwb.rd (if isLoad s.memwb.word then s.memwb.memData else s.memwb.aluOut)) ∧
      (s.memwb.regWrite = false → SameRegs s t) ∧
      ∀ n, Host.Core.run core n t = .next t

/-! ### Register-register instructions (41) -/

/-- ADD, SUB, XOR, OR, AND (41 R302, R303, R307, R310, R311): the result, and its way into `rd`. Rests on the spec's own choices D8,
D9, D10, D11, D12, D23, D41 (log 9); the model's log 5, 8, 10, 19. -/
def Obligations.RegisterArithmetic : Prop :=
  ∀ (s : State) (rd rs1 rs2 : RegIdx),
    (InExecute (encR 0b0000000#7 0b000#3 rd rs1 rs2) s →
      WritesResult (.add rd rs1 rs2) s rd (BitVec.ofNat 32 (s.idex.opA.toNat + s.idex.opB.toNat))) ∧
    (InExecute (encR 0b0100000#7 0b000#3 rd rs1 rs2) s →
      WritesResult (.sub rd rs1 rs2) s rd (BitVec.ofInt 32 (s.idex.opA.toInt - s.idex.opB.toInt))) ∧
    (InExecute (encR 0b0000000#7 0b100#3 rd rs1 rs2) s →
      WritesResult (.xor rd rs1 rs2) s rd (s.idex.opA ^^^ s.idex.opB)) ∧
    (InExecute (encR 0b0000000#7 0b110#3 rd rs1 rs2) s →
      WritesResult (.or rd rs1 rs2) s rd (s.idex.opA ||| s.idex.opB)) ∧
    (InExecute (encR 0b0000000#7 0b111#3 rd rs1 rs2) s →
      WritesResult (.and rd rs1 rs2) s rd (s.idex.opA &&& s.idex.opB))

/-- SLL, SRL, SRA (41 R304, R308, R309), by the low five bits of opB: a product, and two divisions rounding down. Rests on the
spec's own choices D8, D9, D10, D11, D12, D19, D23, D41 (log 9); the model's log 5, 8, 10, 19. -/
def Obligations.RegisterShifts : Prop :=
  ∀ (s : State) (rd rs1 rs2 : RegIdx),
    (InExecute (encR 0b0000000#7 0b001#3 rd rs1 rs2) s →
      WritesResult (.sll rd rs1 rs2) s rd (BitVec.ofNat 32 (s.idex.opA.toNat * 2 ^ (s.idex.opB.toNat % 32)))) ∧
    (InExecute (encR 0b0000000#7 0b101#3 rd rs1 rs2) s →
      WritesResult (.srl rd rs1 rs2) s rd (BitVec.ofNat 32 (s.idex.opA.toNat / 2 ^ (s.idex.opB.toNat % 32)))) ∧
    (InExecute (encR 0b0100000#7 0b101#3 rd rs1 rs2) s →
      WritesResult (.sra rd rs1 rs2) s rd (BitVec.ofInt 32 (s.idex.opA.toInt / 2 ^ (s.idex.opB.toNat % 32))))

/-- SLT and SLTU (41 R305, R306): 1 or 0 by the signed and the unsigned comparison. Rests on the spec's own choices D8, D9, D10,
D11, D12, D23, D41 (log 9); the model's log 5, 8, 10, 19. -/
def Obligations.RegisterComparisons : Prop :=
  ∀ (s : State) (rd rs1 rs2 : RegIdx),
    (InExecute (encR 0b0000000#7 0b010#3 rd rs1 rs2) s →
      WritesResult (.slt rd rs1 rs2) s rd (if s.idex.opA.toInt < s.idex.opB.toInt then 1#32 else 0#32)) ∧
    (InExecute (encR 0b0000000#7 0b011#3 rd rs1 rs2) s →
      WritesResult (.sltu rd rs1 rs2) s rd (if s.idex.opA.toNat < s.idex.opB.toNat then 1#32 else 0#32))

/-! ### Register-immediate instructions and LUI (42) -/

/-- ADDI, XORI, ORI, ANDI with the sign-extended immediate of the word (42 R352, R354 to R356). Rests on the spec's own choices D8,
D9, D10, D11, D12, D23, D41 (log 9); the model's log 5, 8, 10, 19. -/
def Obligations.ImmediateArithmetic : Prop :=
  ∀ (s : State) (rd rs1 : RegIdx) (imm : BitVec 12),
    (InExecute (encI 0b0010011#7 0b000#3 rd rs1 imm) s →
      WritesResult (.addi rd rs1 imm) s rd (BitVec.ofInt 32 (s.idex.opA.toInt + imm.toInt))) ∧
    (InExecute (encI 0b0010011#7 0b100#3 rd rs1 imm) s →
      WritesResult (.xori rd rs1 imm) s rd (s.idex.opA ^^^ imm.signExtend 32)) ∧
    (InExecute (encI 0b0010011#7 0b110#3 rd rs1 imm) s →
      WritesResult (.ori rd rs1 imm) s rd (s.idex.opA ||| imm.signExtend 32)) ∧
    (InExecute (encI 0b0010011#7 0b111#3 rd rs1 imm) s →
      WritesResult (.andi rd rs1 imm) s rd (s.idex.opA &&& imm.signExtend 32))

/-- SLTI compares with the sign-extended immediate; SLLI, SRLI, SRAI shift by the amount of the word (42 R353, R357 to R359; 30
R130). Rests on the spec's own choices D5, D8, D9, D10, D11, D12, D19, D23, D41, D42 (log 9); the model's log 5, 8, 10, 15, 19. -/
def Obligations.ImmediateComparisonAndShifts : Prop :=
  ∀ (s : State) (rd rs1 : RegIdx) (imm : BitVec 12) (shamt : BitVec 5),
    (InExecute (encI 0b0010011#7 0b010#3 rd rs1 imm) s →
      WritesResult (.slti rd rs1 imm) s rd (if s.idex.opA.toInt < imm.toInt then 1#32 else 0#32)) ∧
    (InExecute (encShift 0b0000000#7 0b001#3 rd rs1 shamt) s →
      WritesResult (.slli rd rs1 shamt) s rd (BitVec.ofNat 32 (s.idex.opA.toNat * 2 ^ shamt.toNat))) ∧
    (InExecute (encShift 0b0000000#7 0b101#3 rd rs1 shamt) s →
      WritesResult (.srli rd rs1 shamt) s rd (BitVec.ofNat 32 (s.idex.opA.toNat / 2 ^ shamt.toNat))) ∧
    (InExecute (encShift 0b0100000#7 0b101#3 rd rs1 shamt) s →
      WritesResult (.srai rd rs1 shamt) s rd (BitVec.ofInt 32 (s.idex.opA.toInt / 2 ^ shamt.toNat)))

/-- LUI (42 R390): the upper immediate is its ALU output; it goes into `rd` under `luiWritesRd` and writes no register otherwise.
Rests on the spec's own choices D8, D9, D10, D11, D12, D13, D23, D41 (log 9); the model's log 5, 8, 10, 19. -/
def Obligations.LoadUpperImmediate : Prop :=
  ∀ (s : State) (rd : RegIdx) (imm : BitVec 20), InExecute (encU rd imm) s →
    (s.cfg.luiWritesRd = true → WritesResult (.lui rd imm) s rd (imm ++ 0#12)) ∧
    (s.cfg.luiWritesRd = false →
      ∃ t, Completes (.lui rd imm) s t (imm ++ 0#12) false 0#5 ∧ FetchesOn s t ∧ RetiresSilently t)

/-! ### Load and store (43) -/

/-- LW (43 R400): the address in execute, the word of memory one cycle later, and its way into `rd`. Rests on the spec's own choices
D8, D9, D10, D11, D12, D23, D36, D41 (log 9); the model's log 5, 8, 10, 19. -/
def Obligations.LoadWord : Prop :=
  ∀ (s : State) (rd rs1 : RegIdx) (imm : BitVec 12), InExecute (encI 0b0000011#7 0b010#3 rd rs1 imm) s →
    ∃ t, Completes (.lw rd rs1 imm) s t (s.idex.opA + imm.signExtend 32) true rd ∧ FetchesOn s t ∧
      RetiresWith t rd (t.read (s.idex.opA + imm.signExtend 32))

/-- SW (43 R405): the address in execute; one cycle later the four bytes of opB are in memory at it, where it is aligned and in a
region, and no other byte has changed; it writes no register. Rests on the spec's own choices D8, D9, D10, D11, D12, D23, D41
(log 9); the model's log 5, 8, 10, 19. -/
def Obligations.StoreWord : Prop :=
  ∀ (s : State) (rs1 rs2 : RegIdx) (imm : BitVec 12), InExecute (encS rs1 rs2 imm) s → s.mem.wf = true →
    ∃ t u, Completes (.sw rs1 rs2 imm) s t (s.idex.opA + imm.signExtend 32) false 0#5 ∧ FetchesOn s t ∧
      RetiresSilently t ∧ step t = .next u ∧
      (accessible s.cfg (s.idex.opA + imm.signExtend 32) = true → ∀ k < 4,
        u.mem.readByte ((s.idex.opA + imm.signExtend 32).toNat + k) = s.idex.opB.extractLsb' (8 * k) 8) ∧
      (accessible s.cfg (s.idex.opA + imm.signExtend 32) = false → u.mem = t.mem) ∧
      ∀ a, a < (s.idex.opA + imm.signExtend 32).toNat ∨ (s.idex.opA + imm.signExtend 32).toNat + 4 ≤ a →
        u.mem.readByte a = t.mem.readByte a

/-- A load right after a store to the same in-range aligned address returns the stored word (43 R406): SW in the memory stage, LW of
its address behind it in execute. Rests on the spec's own choices D8, D9, D10, D11, D12, D23, D41 (log 9); the spec's own
derivations R406; the model's log 5, 8, 10, 19. -/
def Obligations.LoadAfterStore : Prop :=
  ∀ (s : State) (rd rs1 : RegIdx) (imm : BitVec 12), InExecute (encI 0b0000011#7 0b010#3 rd rs1 imm) s → s.mem.wf = true →
    isStore s.exmem.word = true → s.exmem.aluOut = s.idex.opA + imm.signExtend 32 →
    accessible s.cfg s.exmem.aluOut = true →
    ∃ t, exec (.lw rd rs1 imm) s = .next t ∧ step s = .next t ∧ RetiresWith t rd s.exmem.opB

/-! ### Branches and jump (44) -/

/-- BEQ and BNE (44 R430, R432, R433): fetch goes to pc + offset or to pc + 4, in the branch's own execute cycle. Rests on the
spec's own choices D8, D9, D10, D11, D12, D23, D41 (log 9); the model's log 5, 8, 10, 19. -/
def Obligations.EqualityBranches : Prop :=
  ∀ (s : State) (rs1 rs2 : RegIdx) (off : BitVec 13), evenOffset off = true →
    (InExecute (encB 0b000#3 rs1 rs2 off) s → BranchesTo (.beq rs1 rs2 off) s
      (if s.idex.opA = s.idex.opB then s.idex.pc + off.signExtend 32 else s.idex.pc + 4#32)) ∧
    (InExecute (encB 0b001#3 rs1 rs2 off) s → BranchesTo (.bne rs1 rs2 off) s
      (if s.idex.opA ≠ s.idex.opB then s.idex.pc + off.signExtend 32 else s.idex.pc + 4#32))

/-- BLT, BGE, BLTU, BGEU (44 R430, R434 to R437): the signed and the unsigned comparisons. Rests on the spec's own choices D8, D9,
D10, D11, D12, D23, D41 (log 9); the model's log 5, 8, 10, 19. -/
def Obligations.OrderedBranches : Prop :=
  ∀ (s : State) (rs1 rs2 : RegIdx) (off : BitVec 13), evenOffset off = true →
    (InExecute (encB 0b100#3 rs1 rs2 off) s → BranchesTo (.blt rs1 rs2 off) s
      (if s.idex.opA.toInt < s.idex.opB.toInt then s.idex.pc + off.signExtend 32 else s.idex.pc + 4#32)) ∧
    (InExecute (encB 0b101#3 rs1 rs2 off) s → BranchesTo (.bge rs1 rs2 off) s
      (if s.idex.opA.toInt ≥ s.idex.opB.toInt then s.idex.pc + off.signExtend 32 else s.idex.pc + 4#32)) ∧
    (InExecute (encB 0b110#3 rs1 rs2 off) s → BranchesTo (.bltu rs1 rs2 off) s
      (if s.idex.opA.toNat < s.idex.opB.toNat then s.idex.pc + off.signExtend 32 else s.idex.pc + 4#32)) ∧
    (InExecute (encB 0b111#3 rs1 rs2 off) s → BranchesTo (.bgeu rs1 rs2 off) s
      (if s.idex.opA.toNat ≥ s.idex.opB.toNat then s.idex.pc + off.signExtend 32 else s.idex.pc + 4#32))

/-- JAL (44 R440): fetch goes to pc + offset, and pc + 4 on its way into `rd`. Rests on the spec's own choices D8, D9, D10, D11,
D12, D23, D41 (log 9); the model's log 5, 8, 10, 19. -/
def Obligations.JumpAndLink : Prop :=
  ∀ (s : State) (rd : RegIdx) (off : BitVec 21), evenOffset off = true → InExecute (encJ rd off) s →
    ∃ t, Completes (.jal rd off) s t (s.idex.pc + 4#32) true rd ∧ FetchesAt t (s.idex.pc + off.signExtend 32) ∧
      RetiresWith t rd (s.idex.pc + 4#32)

/-- No delay slot (40 R251, R294; 70 R618): when a branch or JAL has been passed by decode, the word fetched behind it is discarded
whatever it is, and the next cycle emits a bubble and redirects fetch to the branch's target or its pc + 4. Rests on the spec's
own choices D10, D18 (log 9); the spec's own derivations R294, R618; the model's log 5. -/
def Obligations.BranchShadowIsDiscarded : Prop :=
  ∀ s t : State, Invariant s → s.halt.halted = false → step s = .next t → t.halt.halted = false →
    (∃ i, decodeWord t.idex.word = .instr i) → isControl t.idex.word = true →
    ∃ u, step t = .next u ∧ u.idex = IDEX.zero ∧ u.stall.mode = .normal ∧
      (u.ifid.pc = t.idex.pc + t.idex.imm ∨ u.ifid.pc = t.idex.pc + 4#32) ∧
      ∀ f : IFID, step { t with ifid := f } = .next u

/-! ### The NOP word (45) -/

/-- NOP in execute: a bubble in `EXMEM`, no redirect, no halt (40 R245). Rests on the spec's own choices D7, D8, D9, D10, D11, D12,
D23, D41 (log 9); the model's log 5, 8, 10, 19. -/
def Obligations.NopInExecute : Prop :=
  ∀ s : State, InExecute 0#32 s →
    ∃ t, exec .nop s = .next t ∧ step s = .next t ∧ WholeCycle s t ∧ t.exmem = EXMEM.zero ∧ t.halt = s.halt ∧
      FetchesOn s t ∧ RetiresSilently t

/-- NOP in decode: a bubble, and the stall state unchanged (40 R253); Normal is the mode decode sees (40 R250). Rests on the spec's
own choices D7, D38 (log 9); the model's log 10. -/
def Obligations.NopInDecode : Prop :=
  ∀ s t : State, s.halt.halted = false → DecodesNormally s → s.ifid.word = 0#32 → step s = .next t →
    t.idex = IDEX.zero ∧ t.stall = releaseStall s.stall s.memwb

/-! ### Hazards, forwarding and the stall state (40) -/

/-- Register 0 (10 R32): a writeback to index 0 stores its value, and under `x0HardwiredZero` it is discarded and `x[0]` reads 0.
Rests on the spec's own choices D9, D11 (log 9); the model's log 19. -/
def Obligations.RegisterZeroWritten : Prop :=
  ∀ s t : State, s.halt.halted = false → step s = .next t →
    (s.cfg.x0HardwiredZero = false → s.memwb.regWrite = true → s.memwb.rd = 0#5 → t.reg 0#5 = writebackValue s.memwb) ∧
    (s.cfg.x0HardwiredZero = true → t.reg 0#5 = 0#32)

/-- The stall countdown and the release by match (40 R225, R226), on the stall state writeback sees. Rests on the spec's own choices
D17 (log 9). -/
def Obligations.StallRelease : Prop :=
  ∀ (st : StallState) (l : MEMWB),
    (st.mode = .stalled → st.remaining = 1 ∨
      (l.regWrite = true ∧ l.rd = st.prodRd ∧ opcodeOf l.word = st.prodOpcode) →
        releaseStall st l = { st with mode := .normal, remaining := 0 }) ∧
    (st.mode = .stalled → st.remaining = 2 →
      ¬ (l.regWrite = true ∧ l.rd = st.prodRd ∧ opcodeOf l.word = st.prodOpcode) →
        releaseStall st l = { st with remaining := 1 }) ∧
    (st.mode ≠ .stalled → releaseStall st l = st)

/-- A stall in progress (40 R252): decode emits a bubble and holds, so the held word is fetched again and the pc stays. Rests on the
spec's own choices D10, D17, D23, D41 (log 9). -/
def Obligations.StalledCycleHolds : Prop :=
  ∀ s : State, Invariant s → s.halt.halted = false → (releaseStall s.stall s.memwb).mode = .stalled →
    ∃ t, step s = .next t ∧ t.idex = IDEX.zero ∧ t.stall = releaseStall s.stall s.memwb ∧
      t.ifid.pc = s.pc - 4#32 ∧ t.pc = s.pc

/-- A released stall runs decode as in Normal mode, in the same cycle (40 R264). Rests on the spec's own choices D17 (log 9); the
spec's own derivations R264. -/
def Obligations.ReleasedStallDecodesNormally : Prop :=
  ∀ s : State, s.stall.mode = .stalled → DecodesNormally s →
    ∀ t, s.halt.halted = false → (step s = .next t ↔
      step { s with stall := { s.stall with mode := .normal, remaining := 0 } } = .next t)

/-- The branch bubble (40 R251): a bubble, mode Normal, no hold, and the word in `IFID` is discarded. Fetch goes on at the pc (40
R277) where the word in execute is no branch or JAL, an unsupported BRANCH word among them (40 R246). Rests on the spec's own
choices D6, D8, D10, D23, D41 (log 9); the model's log 15. -/
def Obligations.BranchBubbleCycle : Prop :=
  ∀ s : State, s.halt.halted = false → s.stall.mode = .branchBubble →
    ∃ t, step s = .next t ∧ t.idex = IDEX.zero ∧ t.stall = { s.stall with mode := .normal } ∧
      ((∀ i, decodeWord s.idex.word = .instr i → isControl s.idex.word = false) → t.ifid.pc = s.pc ∧ t.pc = s.pc + 4#32) ∧
      ∀ f : IFID, step { s with ifid := f } = .next t

/-- Stall entry without forwarding (40 R258, R259, R260): on a hazard with the latches execute and memory produce in the cycle,
decode emits a bubble, holds, and records the producer, the one in `EXMEM` first with 2 cycles, else the one in `MEMWB` with 1.
Rests on the spec's own choices D16, D18 (log 9). -/
def Obligations.HazardEntersStall : Prop :=
  ∀ s t : State, s.halt.halted = false → step s = .next t → s.stall.forwarding = false → DecodesNormally s →
    s.ifid.word ≠ 0#32 →
    ((∃ r, Reads s.ifid.word r ∧ t.exmem.Writes r) → t.idex = IDEX.zero ∧
      t.stall = ⟨.stalled, 2, opcodeOf t.exmem.word, t.exmem.rd, false⟩ ∧
      (isControl s.idex.word = false → t.ifid.pc = s.pc - 4#32 ∧ t.pc = s.pc)) ∧
    ((∀ r, Reads s.ifid.word r → ¬ t.exmem.Writes r) → (∃ r, Reads s.ifid.word r ∧ t.memwb.Writes r) →
      t.idex = IDEX.zero ∧ t.stall = ⟨.stalled, 1, opcodeOf t.memwb.word, t.memwb.rd, false⟩ ∧
      (isControl s.idex.word = false → t.ifid.pc = s.pc - 4#32 ∧ t.pc = s.pc))

/-- Decode passes without forwarding (40 R257, R261, R262): with no hazard, the word with both registers as writeback left them, its
immediate, and the branch-pending mode for a control word. Rests on the spec's own choices D9, D15, D18 (log 9). -/
def Obligations.PassesWithoutForwarding : Prop :=
  ∀ s t : State, s.halt.halted = false → step s = .next t → s.stall.forwarding = false → DecodesNormally s →
    s.ifid.word ≠ 0#32 → (∀ r, Reads s.ifid.word r → ¬ t.exmem.Writes r ∧ ¬ t.memwb.Writes r) →
    t.idex = ⟨s.ifid.word, s.ifid.pc, t.reg (rs1Of s.ifid.word), t.reg (rs2Of s.ifid.word), immOf s.ifid.word⟩ ∧
      t.stall.mode = if isControl s.ifid.word then .branchBubble else .normal

/-- The forwarding unit (40 R256, R258): with forwarding, decode never stalls, and each operand is EXMEM's ALU output, else MEMWB's
memory data, else the register, by the latches the cycle produces. Rests on the spec's own choices D14, D15, D18, D36 (log 9). -/
def Obligations.PassesWithForwarding : Prop :=
  ∀ s t : State, s.halt.halted = false → step s = .next t → s.stall.forwarding = true → DecodesNormally s →
    s.ifid.word ≠ 0#32 →
    t.idex.word = s.ifid.word ∧ t.idex.pc = s.ifid.pc ∧ t.idex.imm = immOf s.ifid.word ∧
      (t.stall.mode = if isControl s.ifid.word then .branchBubble else .normal) ∧
      ∀ r v, (r = rs1Of s.ifid.word ∧ v = t.idex.opA) ∨ (r = rs2Of s.ifid.word ∧ v = t.idex.opB) →
        (t.exmem.Writes r → v = t.exmem.aluOut) ∧
        (¬ t.exmem.Writes r → t.memwb.Writes r → v = t.memwb.memData) ∧
        (¬ t.exmem.Writes r → ¬ t.memwb.Writes r → v = t.reg r)

/-- Without forwarding, no word passes decode while a latch ahead of it still holds a result for a register it reads, other than
register 0, and its operands are the registers (40 R293). Rests on the spec's own derivations R293. -/
def Obligations.PassedOperandsAreCurrent : Prop :=
  ∀ s t : State, s.halt.halted = false → step s = .next t → s.stall.forwarding = false → t.idex.word ≠ 0#32 →
    t.idex.opA = t.reg (rs1Of t.idex.word) ∧ t.idex.opB = t.reg (rs2Of t.idex.word) ∧
      ∀ r, Reads t.idex.word r → ¬ t.exmem.Writes r ∧ ¬ t.memwb.Writes r

/-- Load-use under forwarding (70 R615): the reader right behind an LW receives the load's address. Rests on the spec's own choices
D14, D15, D36 (log 9); the model's log 5, 8. -/
def Obligations.LoadUseReceivesAddress : Prop :=
  ∀ (s : State) (rd rs1 : RegIdx) (imm : BitVec 12), InExecute (encI 0b0000011#7 0b010#3 rd rs1 imm) s →
    s.stall.forwarding = true → DecodesNormally s → s.ifid.word ≠ 0#32 → rd ≠ 0#5 →
    ∃ t, step s = .next t ∧ t.idex.word = s.ifid.word ∧
      (rs1Of s.ifid.word = rd → t.idex.opA = s.idex.opA + imm.signExtend 32) ∧
      (rs2Of s.ifid.word = rd → t.idex.opB = s.idex.opA + imm.signExtend 32)

/-- Stall lengths (40 R292): a reader behind its producer in `EXMEM` is held two cycles, one behind its producer in `MEMWB` only is
held one, and then it passes with the registers as they are. The held word is taken to be the same at each re-fetch (no store
has replaced it), and the core not to halt meanwhile. Rests on the spec's own derivations R292. -/
def Obligations.StallLengths : Prop :=
  ∀ s t : State, Invariant s → s.halt.halted = false → step s = .next t → s.stall.forwarding = false → DecodesNormally s →
    s.ifid.word ≠ 0#32 → t.halt.halted = false → t.ifid.word = s.ifid.word →
    ((∃ r, Reads s.ifid.word r ∧ t.exmem.Writes r) → ∃ u v, step t = .next u ∧ step u = .next v ∧
      t.idex = IDEX.zero ∧ u.idex = IDEX.zero ∧ (u.ifid.word = s.ifid.word →
        v.idex.word = s.ifid.word ∧ v.idex.opA = v.reg (rs1Of s.ifid.word) ∧ v.idex.opB = v.reg (rs2Of s.ifid.word))) ∧
    ((∀ r, Reads s.ifid.word r → ¬ t.exmem.Writes r) → (∃ r, Reads s.ifid.word r ∧ t.memwb.Writes r) →
      ∃ u, step t = .next u ∧ t.idex = IDEX.zero ∧
        u.idex.word = s.ifid.word ∧ u.idex.opA = u.reg (rs1Of s.ifid.word) ∧ u.idex.opB = u.reg (rs2Of s.ifid.word))

/-! ### Fetch (40, 20) -/

/-- The fetch address where nothing redirects: the held word during a stall, else the pc (40 R277); only branches and JAL redirect
(R244). Rests on the spec's own choices D10, D23, D41 (log 9). -/
def Obligations.SequentialFetch : Prop :=
  ∀ s t : State, s.halt.halted = false → step s = .next t →
    (∀ i, decodeWord s.idex.word = .instr i → isControl s.idex.word = false) → FetchesOn s t ∧ t.pc = t.ifid.pc + 4#32

/-- A fetch from a misaligned address or from outside every region fetches the word 0 (40 R279, 60 R507). Rests on the spec's own
choices D8, D22 (log 9); the model's log 20. -/
def Obligations.FetchOutsideMemoryIsNop : Prop :=
  ∀ s t : State, s.halt.halted = false → step s = .next t →
    (t.ifid.pc.toNat % 4 ≠ 0 ∨ ∀ r ∈ s.cfg.regions, ¬ (r.first.toNat ≤ t.ifid.pc.toNat ∧ t.ifid.pc.toNat ≤ r.last.toNat)) →
    t.ifid.word = 0#32

/-- A fetch returns memory as updated by a store performed in the same cycle (20 R92). Rests on the spec's own choices D23 (log 9). -/
def Obligations.FetchSeesStoreOfSameCycle : Prop :=
  ∀ s t : State, s.mem.wf = true → s.halt.halted = false → step s = .next t → isStore s.exmem.word = true →
    accessible s.cfg s.exmem.aluOut = true → t.ifid.pc = s.exmem.aluOut → t.ifid.word = s.exmem.opB

/-- What was fetched is what runs (40 R261, R242; 20 R92): the word of memory at the fetch address, once decode passes it in the
next cycle, is in execute in the cycle after, and that step runs the instruction it decodes to. Rests on the spec's own choices
D15 (log 9). -/
def Obligations.FetchedWordReachesExecute : Prop :=
  ∀ s t u : State, s.halt.halted = false → step s = .next t → t.halt.halted = false → step t = .next u →
    u.halt.halted = false → DecodesNormally t →
    (t.stall.forwarding = true ∨ ∀ r, Reads t.ifid.word r → ¬ u.exmem.Writes r ∧ ¬ u.memwb.Writes r) →
    u.idex.word = t.read t.ifid.pc ∧ ∀ i, decodeWord (t.read t.ifid.pc) = .instr i → step u = exec i u

/-! ### Reset and power-on (70, 10) -/

/-- Reset (70 R600, R608; 10 R54): every field at its reset value, the forwarding flag and the configuration kept, the image in
memory word by word from `textBase`, and every other byte 0. Rests on the spec's own choices D21, D25, D29, D43 (log 9). -/
def Obligations.ResetLeaves : Prop :=
  ∀ (s t : State) (ws : List Word), s.cfg.image = some ws → Command.run .reset s = .next t →
    (∀ q, t.reg q = 0#32) ∧ t.hi = 0#32 ∧ t.lo = 0#32 ∧ t.pc = s.cfg.textBase ∧
    t.ifid = IFID.zero ∧ t.idex = IDEX.zero ∧ t.exmem = EXMEM.zero ∧ t.memwb = MEMWB.zero ∧
    t.stall = ⟨.normal, 0, 0#7, 0#5, s.stall.forwarding⟩ ∧ t.halt = ⟨false, .noHalt, 0#32, 0#32⟩ ∧
    t.cycleCount = 0 ∧ t.instretCount = 0 ∧ t.cfg = s.cfg ∧
    (∀ (i : Nat) (h : i < ws.length), t.read (s.cfg.textBase + BitVec.ofNat 32 (4 * i)) = ws[i]) ∧
    ∀ a, a < s.cfg.textBase.toNat ∨ s.cfg.textBase.toNat + 4 * ws.length ≤ a → t.mem.readByte a = 0#8

/-- When reset runs and when it is refused (20 R81, 70 R609, R610): an ill-formed region list is the reason given even without an
image, and an image of no words runs. Rests on the spec's own choices D20, D21, D43 (log 9); the model's log 12, 13, 18. -/
def Obligations.ResetRunsOrIsRefused : Prop :=
  ∀ s : State,
    (regionsWf s.cfg.regions = false → Command.run .reset s = .refused .regionsIllFormed) ∧
    (regionsWf s.cfg.regions = true → s.cfg.image = none → Command.run .reset s = .refused .noProgram) ∧
    (∀ ws, regionsWf s.cfg.regions = true → s.cfg.image = some ws →
      ((∃ r ∈ s.cfg.regions, s.cfg.textBase.toNat % 4 = 0 ∧ r.first.toNat ≤ s.cfg.textBase.toNat ∧
          s.cfg.textBase.toNat ≤ r.last.toNat ∧ s.cfg.textBase.toNat + 4 * ws.length ≤ r.last.toNat + 1) →
        ∃ t, Command.run .reset s = .next t) ∧
      ((∀ r ∈ s.cfg.regions, s.cfg.textBase.toNat % 4 = 0 → r.first.toNat ≤ s.cfg.textBase.toNat →
          s.cfg.textBase.toNat ≤ r.last.toNat → ¬ s.cfg.textBase.toNat + 4 * ws.length ≤ r.last.toNat + 1) →
        Command.run .reset s = .refused .imageDoesNotFit))

/-- Power-on is the reset state with `forwarding = forwardingAtPowerOn` (10 R55). Rests on the spec's own choices D26, D28 (log 9). -/
def Obligations.PowerOnIsResetState : Prop :=
  ∀ (cfg : Config) (t : State), powerOn cfg = .next t →
    t.stall.forwarding = cfg.forwardingAtPowerOn ∧ t.cfg = cfg ∧ Command.run .reset t = .next t

/-! ### Host commands (60) -/

/-- "step N" (60 R521): the state after some `k` of the `n` cycles, all of them unless the core halted at the `k`-th; none for a
halted core or `N = 0`. Rests on the spec's own choices D29, D40 (log 9). -/
def Obligations.StepCommand : Prop :=
  ∀ (n : Nat) (s : State), ∃ k t, k ≤ n ∧ Command.run (.stepCycles n) s = .next t ∧ Host.Core.run core k s = .next t ∧
    (k < n → t.halt.halted = true) ∧ (s.halt.halted = true → k = 0) ∧
    ∀ j u, j < k → Host.Core.run core j s = .next u → u.halt.halted = false

/-- "run to completion" (60 R522): a core already halted stays as it is; a cycle that halts the core ends it, whatever the pc (60
R505), and so does one that leaves the pc at `endPC`, with the sentinel's record; after any other it goes on. It gives no result
when its fuel runs out first, and is refused where `endPC` is not configured (60 R520). Rests on the spec's own choices D30,
D31, D34 (log 9); the model's log 18. -/
def Obligations.RunToCompletion : Prop :=
  (∀ (n : Nat) (s t : State), Command.run (.runToCompletion n) s = .next t → t.halt.halted = true) ∧
  (∀ (n : Nat) (s : State), s.cfg.endPC = none → Command.run (.runToCompletion n) s = .refused .endPCNotConfigured) ∧
  ∀ (n : Nat) (s : State) (e : Word), s.cfg.endPC = some e →
    (s.halt.halted = true → Command.run (.runToCompletion n) s = .next s) ∧
    (s.halt.halted = false → Command.run (.runToCompletion 0) s = .refused .noResult) ∧
    ∀ t, s.halt.halted = false → step s = .next t →
      (t.halt.halted = true → Command.run (.runToCompletion (n + 1)) s = .next t) ∧
      (t.halt.halted = false → t.pc = e →
        Command.run (.runToCompletion (n + 1)) s = .next { t with halt := ⟨true, .endSentinel, e, 0#32⟩ }) ∧
      (t.halt.halted = false → t.pc ≠ e →
        Command.run (.runToCompletion (n + 1)) s = Command.run (.runToCompletion n) t)

/-- "set a register, the HI, or the LO value" (60 R524) and "toggle forwarding" (60 R526, 40 R263), halted or not: the register or
the flag, and nothing else; a stall in progress goes on. Rests on the spec's own choices D11, D30, D35 (log 9); the model's log
19. -/
def Obligations.WritingCommands : Prop :=
  ∀ (s : State) (r : RegIdx) (v : Word),
    (∃ t, Command.run (.setRegister r v) s = .next t ∧ WritesOnly s t r v ∧ t = { s with x := t.x }) ∧
    Command.run (.setHI v) s = .next { s with hi := v } ∧ Command.run (.setLO v) s = .next { s with lo := v } ∧
    ∃ t, Command.run .toggleForwarding s = .next t ∧
      t = { s with stall := { s.stall with forwarding := !s.stall.forwarding } } ∧
      (s.halt.halted = false → (releaseStall s.stall s.memwb).mode = .stalled →
        ∃ u, step t = .next u ∧ u.stall.mode = .stalled ∧ u.idex = IDEX.zero)

/-- "dump a memory range" (60 R523) and "dump register file" (60 R525): each byte as stored, or 0 outside every region; `x[0..31]`,
`pc`, `HI` and `LO`; and nothing changes. -/
def Obligations.DumpCommands : Prop :=
  ∀ (s : State) (a n : Nat),
    Command.run (.dumpMemory a n) s = .next s ∧
    (∃ bs, Command.reply (.dumpMemory a n) s s = .bytes bs ∧ bs.length = n ∧ ∀ k, k < n →
      ((∃ r ∈ s.cfg.regions, r.first.toNat ≤ a + k ∧ a + k ≤ r.last.toNat) → bs[k]? = some (s.mem.readByte (a + k))) ∧
      ((∀ r ∈ s.cfg.regions, ¬ (r.first.toNat ≤ a + k ∧ a + k ≤ r.last.toNat)) → bs[k]? = some 0#8)) ∧
    Command.run .dumpRegisters s = .next s ∧
    ∃ d, Command.reply .dumpRegisters s s = .registers d ∧ d.x.length = 32 ∧ (∀ r : RegIdx, d.x[r.toNat]? = some (s.reg r)) ∧
      d.pc = s.pc ∧ d.hi = s.hi ∧ d.lo = s.lo

/-- "disassemble" (60 R528), as words with their fields and class; "show the latches" (60 R529), with the stall state, whose record
is shown or not by the model's parameter; they change nothing. And the host's read of the control state, each field that 10 R52
lets the host read, the counters (60 R512) among them; that it is no command is the model's choice (log 22). Rests on the spec's
own choices D25, D26, D27, D28, D34 (log 9); the spec's own derivations R529; the model's log 16, 17, 21, 22. -/
def Obligations.ViewingCommands : Prop :=
  ∀ (s : State) (a : Word) (n : Nat),
    Command.run (.disassemble a n) s = .next s ∧
    (∃ ls, Command.reply (.disassemble a n) s s = .listing ls ∧ ls.length = n ∧ ∀ k, k < n →
      ∃ w, w = s.read (a + BitVec.ofNat 32 (4 * k)) ∧
        ls[k]? = some ⟨a + BitVec.ofNat 32 (4 * k), w, decodeFields w, decodeWord w⟩) ∧
    Command.run .showLatches s = .next s ∧
    (∃ v, Command.reply .showLatches s s = .latches v ∧
      v.ifid = s.ifid ∧ v.idex = s.idex ∧ v.exmem = s.exmem ∧ v.memwb = s.memwb ∧
      v.mode = s.stall.mode ∧ v.forwarding = s.stall.forwarding ∧
      (s.cfg.stallRecordShown = true → v.record = some ⟨s.stall.remaining, s.stall.prodOpcode, s.stall.prodRd⟩) ∧
      (s.cfg.stallRecordShown = false → v.record = none)) ∧
    readControl s = ⟨s.stall.mode, s.stall.forwarding, s.halt.halted, s.halt.reason, s.halt.pc, s.halt.word,
      s.cycleCount, s.instretCount⟩

/-! ### Invariants -/

/-- The invariant holds at the model's reset state. Rests on the spec's own choices D21, D25, D29 (log 9); the model's log 2, 3, 4. -/
def Obligations.ResetMeetsInvariant : Prop := Invariant State.reset

/-- Every step keeps the invariant, from every state that meets it. Rests on the spec's own choices D12, D13, D16, D17, D20, D27
(log 9); the spec's own derivations R51, R291; the model's log 6, 10, 16, 19. -/
def Obligations.StepKeepsInvariant : Prop := ∀ s t : State, Invariant s → step s = .next t → Invariant t

/-- Every host command keeps the invariant, and power-on establishes it under any configuration it accepts. Rests on the spec's own
choices D21, D25, D26, D27, D28, D29, D30 (log 9); the spec's own derivations R51; the model's log 6, 16. -/
def Obligations.CommandsKeepInvariant : Prop :=
  (∀ (c : Command) (s t : State), Invariant s → c.run s = .next t → Invariant t) ∧
  ∀ (cfg : Config) (s : State), powerOn cfg = .next s → Invariant s
end

