-- ==== Sys2Proof/Laws/Decode.lean ====
section
/-! SUPPORT. The fields of an encoded word, the mask laws of the opcode table's rows, and the classifiers of 40 R212. -/

namespace Sys2Proof

/-! ### Fields of the encoders -/

theorem extract_append_low {n m k s : Nat} (x : BitVec n) (y : BitVec m) (h : s + k ≤ m) :
    (x ++ y).extractLsb' s k = y.extractLsb' s k := by
  apply BitVec.eq_of_getLsbD_eq
  intro i hi
  simp only [BitVec.getLsbD_extractLsb', BitVec.getLsbD_append]
  rw [if_pos (by omega)]

theorem extract_append_high {n m k s : Nat} (x : BitVec n) (y : BitVec m) (h : m ≤ s) :
    (x ++ y).extractLsb' s k = x.extractLsb' (s - m) k := by
  apply BitVec.eq_of_getLsbD_eq
  intro i hi
  simp only [BitVec.getLsbD_extractLsb', BitVec.getLsbD_append]
  rw [if_neg (by omega)]
  congr 2
  omega

theorem extract_self {n : Nat} (x : BitVec n) : x.extractLsb' 0 n = x := by
  apply BitVec.eq_of_getLsbD_eq
  intro i hi
  simp [hi]

/-- Reads a field of a concatenation: drops the parts below and above it. -/
theorem extract_append_self {n m : Nat} (x : BitVec n) (y : BitVec m) : (x ++ y).extractLsb' m n = x := by
  rw [extract_append_high _ _ (Nat.le_refl m), Nat.sub_self, extract_self]

@[simp] theorem opcodeOf_encR (f7 f3 rd rs1 rs2) : opcodeOf (encR f7 f3 rd rs1 rs2) = opOP := by
  simp (disch := decide) only [opcodeOf, encR, extract_append_low, extract_self]
@[simp] theorem rdOf_encR (f7 f3 rd rs1 rs2) : rdOf (encR f7 f3 rd rs1 rs2) = rd := by
  simp (disch := decide) only [rdOf, encR, extract_append_high, extract_append_low, Nat.reduceSub, extract_self]
@[simp] theorem funct3Of_encR (f7 f3 rd rs1 rs2) : funct3Of (encR f7 f3 rd rs1 rs2) = f3 := by
  simp (disch := decide) only [funct3Of, encR, extract_append_high, extract_append_low, Nat.reduceSub, extract_self]
@[simp] theorem rs1Of_encR (f7 f3 rd rs1 rs2) : rs1Of (encR f7 f3 rd rs1 rs2) = rs1 := by
  simp (disch := decide) only [rs1Of, encR, extract_append_high, extract_append_low, Nat.reduceSub, extract_self]
@[simp] theorem rs2Of_encR (f7 f3 rd rs1 rs2) : rs2Of (encR f7 f3 rd rs1 rs2) = rs2 := by
  simp (disch := decide) only [rs2Of, encR, extract_append_high, extract_append_low, Nat.reduceSub, extract_self]
@[simp] theorem funct7Of_encR (f7 f3 rd rs1 rs2) : funct7Of (encR f7 f3 rd rs1 rs2) = f7 := by
  simp (disch := decide) only [funct7Of, encR, extract_append_high, Nat.reduceSub, extract_self]

@[simp] theorem opcodeOf_encI (op f3 rd rs1 imm) : opcodeOf (encI op f3 rd rs1 imm) = op := by
  simp (disch := decide) only [opcodeOf, encI, extract_append_low, extract_self]
@[simp] theorem rdOf_encI (op f3 rd rs1 imm) : rdOf (encI op f3 rd rs1 imm) = rd := by
  simp (disch := decide) only [rdOf, encI, extract_append_high, extract_append_low, Nat.reduceSub, extract_self]
@[simp] theorem funct3Of_encI (op f3 rd rs1 imm) : funct3Of (encI op f3 rd rs1 imm) = f3 := by
  simp (disch := decide) only [funct3Of, encI, extract_append_high, extract_append_low, Nat.reduceSub, extract_self]
@[simp] theorem rs1Of_encI (op f3 rd rs1 imm) : rs1Of (encI op f3 rd rs1 imm) = rs1 := by
  simp (disch := decide) only [rs1Of, encI, extract_append_high, extract_append_low, Nat.reduceSub, extract_self]

@[simp] theorem opcodeOf_encShift (f7 f3 rd rs1 shamt) : opcodeOf (encShift f7 f3 rd rs1 shamt) = opOPIMM := by
  simp (disch := decide) only [opcodeOf, encShift, extract_append_low, extract_self]
@[simp] theorem rdOf_encShift (f7 f3 rd rs1 shamt) : rdOf (encShift f7 f3 rd rs1 shamt) = rd := by
  simp (disch := decide) only [rdOf, encShift, extract_append_high, extract_append_low, Nat.reduceSub, extract_self]
@[simp] theorem funct3Of_encShift (f7 f3 rd rs1 shamt) : funct3Of (encShift f7 f3 rd rs1 shamt) = f3 := by
  simp (disch := decide) only [funct3Of, encShift, extract_append_high, extract_append_low, Nat.reduceSub, extract_self]
@[simp] theorem rs1Of_encShift (f7 f3 rd rs1 shamt) : rs1Of (encShift f7 f3 rd rs1 shamt) = rs1 := by
  simp (disch := decide) only [rs1Of, encShift, extract_append_high, extract_append_low, Nat.reduceSub, extract_self]
@[simp] theorem funct7Of_encShift (f7 f3 rd rs1 shamt) : funct7Of (encShift f7 f3 rd rs1 shamt) = f7 := by
  simp (disch := decide) only [funct7Of, encShift, extract_append_high, Nat.reduceSub, extract_self]

@[simp] theorem opcodeOf_encS (rs1 rs2 imm) : opcodeOf (encS rs1 rs2 imm) = opSTORE := by
  simp (disch := decide) only [opcodeOf, encS, extract_append_low, extract_self]
@[simp] theorem funct3Of_encS (rs1 rs2 imm) : funct3Of (encS rs1 rs2 imm) = 0b010#3 := by
  simp (disch := decide) only [funct3Of, encS, extract_append_high, extract_append_low, Nat.reduceSub, extract_self]
@[simp] theorem rs1Of_encS (rs1 rs2 imm) : rs1Of (encS rs1 rs2 imm) = rs1 := by
  simp (disch := decide) only [rs1Of, encS, extract_append_high, extract_append_low, Nat.reduceSub, extract_self]
@[simp] theorem rs2Of_encS (rs1 rs2 imm) : rs2Of (encS rs1 rs2 imm) = rs2 := by
  simp (disch := decide) only [rs2Of, encS, extract_append_high, extract_append_low, Nat.reduceSub, extract_self]

@[simp] theorem opcodeOf_encB (f3 rs1 rs2 off) : opcodeOf (encB f3 rs1 rs2 off) = opBRANCH := by
  simp (disch := decide) only [opcodeOf, encB, extract_append_low, extract_self]
@[simp] theorem funct3Of_encB (f3 rs1 rs2 off) : funct3Of (encB f3 rs1 rs2 off) = f3 := by
  simp (disch := decide) only [funct3Of, encB, extract_append_high, extract_append_low, Nat.reduceSub, extract_self]
@[simp] theorem rs1Of_encB (f3 rs1 rs2 off) : rs1Of (encB f3 rs1 rs2 off) = rs1 := by
  simp (disch := decide) only [rs1Of, encB, extract_append_high, extract_append_low, Nat.reduceSub, extract_self]
@[simp] theorem rs2Of_encB (f3 rs1 rs2 off) : rs2Of (encB f3 rs1 rs2 off) = rs2 := by
  simp (disch := decide) only [rs2Of, encB, extract_append_high, extract_append_low, Nat.reduceSub, extract_self]

@[simp] theorem opcodeOf_encJ (rd off) : opcodeOf (encJ rd off) = opJAL := by
  simp (disch := decide) only [opcodeOf, encJ, extract_append_low, extract_self]
@[simp] theorem rdOf_encJ (rd off) : rdOf (encJ rd off) = rd := by
  simp (disch := decide) only [rdOf, encJ, extract_append_high, extract_append_low, Nat.reduceSub, extract_self]

@[simp] theorem opcodeOf_encU (rd imm) : opcodeOf (encU rd imm) = opLUI := by
  simp (disch := decide) only [opcodeOf, encU, extract_append_low, extract_self]
@[simp] theorem rdOf_encU (rd imm) : rdOf (encU rd imm) = rd := by
  simp (disch := decide) only [rdOf, encU, extract_append_high, extract_append_low, Nat.reduceSub, extract_self]

@[simp] theorem immIOf_encI (op f3 rd rs1 imm) : immIOf (encI op f3 rd rs1 imm) = imm := by
  simp (disch := decide) only [immIOf, encI, extract_append_high, Nat.reduceSub, extract_self]
@[simp] theorem shamtOf_encShift (f7 f3 rd rs1 shamt) : shamtOf (encShift f7 f3 rd rs1 shamt) = shamt := by
  simp (disch := decide) only [shamtOf, encShift, extract_append_high, extract_append_low, Nat.reduceSub, extract_self]
@[simp] theorem immUOf_encU (rd imm) : immUOf (encU rd imm) = imm := by
  simp (disch := decide) only [immUOf, encU, extract_append_high, Nat.reduceSub, extract_self]

/-! ### The masks of the opcode table -/

/-- The mask of the rows that fix opcode, funct3 and funct7. -/
theorem mask_all (w : Word) :
    w &&& 0xFE00707F#32 = funct7Of w ++ 0#10 ++ funct3Of w ++ 0#5 ++ opcodeOf w := by
  apply BitVec.eq_of_getLsbD_eq
  intro i hi
  simp only [funct7Of, funct3Of, opcodeOf, BitVec.getLsbD_and, BitVec.getLsbD_append, BitVec.getLsbD_extractLsb']
  interval_cases i <;> simp

/-- The mask of the rows that fix opcode and funct3. -/
theorem mask_funct3 (w : Word) : w &&& 0x0000707F#32 = 0#17 ++ funct3Of w ++ 0#5 ++ opcodeOf w := by
  apply BitVec.eq_of_getLsbD_eq
  intro i hi
  simp only [funct3Of, opcodeOf, BitVec.getLsbD_and, BitVec.getLsbD_append, BitVec.getLsbD_extractLsb']
  interval_cases i <;> simp

/-- The mask of the rows that fix the opcode alone. -/
theorem mask_opcode (w : Word) : w &&& 0x0000007F#32 = 0#25 ++ opcodeOf w := by
  apply BitVec.eq_of_getLsbD_eq
  intro i hi
  simp only [opcodeOf, BitVec.getLsbD_and, BitVec.getLsbD_append, BitVec.getLsbD_extractLsb']
  interval_cases i <;> simp

/-! ### Classes -/

/-- The opcode of each instruction's word (30 R132). -/
def Instr.opcode : Instr → Opcode
  | .add _ _ _ | .sub _ _ _ | .sll _ _ _ | .slt _ _ _ | .sltu _ _ _ | .xor _ _ _ | .srl _ _ _ | .sra _ _ _
  | .or _ _ _ | .and _ _ _ => opOP
  | .addi _ _ _ | .slti _ _ _ | .xori _ _ _ | .ori _ _ _ | .andi _ _ _ | .slli _ _ _ | .srli _ _ _ | .srai _ _ _ => opOPIMM
  | .lui _ _ => opLUI
  | .lw _ _ _ => opLOAD
  | .sw _ _ _ => opSTORE
  | .beq _ _ _ | .bne _ _ _ | .blt _ _ _ | .bge _ _ _ | .bltu _ _ _ | .bgeu _ _ _ => opBRANCH
  | .jal _ _ => opJAL
  | .nop => 0#7

/-- What decoding says of the fields: the opcode, and the destination where there is one. -/
def FieldsAgree (w : Word) (i : Instr) : Prop :=
  opcodeOf w = i.opcode ∧ ∀ rd, i.dest? = some rd → rd = rdOf w

theorem decodeOp_agrees {w : Word} {i : Instr} (ho : opcodeOf w = opOP) (h : decodeOp w = .instr i) :
    FieldsAgree w i := by
  unfold decodeOp at h
  split_ifs at h <;> cases h <;> exact ⟨ho, fun _ hd => by cases hd; rfl⟩

theorem decodeOpImm_agrees {w : Word} {i : Instr} (ho : opcodeOf w = opOPIMM) (h : decodeOpImm w = .instr i) :
    FieldsAgree w i := by
  unfold decodeOpImm at h
  split_ifs at h <;> cases h <;> exact ⟨ho, fun _ hd => by cases hd; rfl⟩

theorem decodeBranch_agrees {w : Word} {i : Instr} (ho : opcodeOf w = opBRANCH) (h : decodeBranch w = .instr i) :
    FieldsAgree w i := by
  unfold decodeBranch at h
  split_ifs at h <;> cases h <;> exact ⟨ho, fun _ hd => by cases hd⟩

/-- The classifier, one opcode at a time: what each case needs. -/
theorem decodeWord_cases {w : Word} {P : Decoded → Prop} (h0 : w = 0#32 → P (.instr .nop))
    (hop : opcodeOf w = opOP → P (decodeOp w)) (himm : opcodeOf w = opOPIMM → P (decodeOpImm w))
    (hlw : opcodeOf w = opLOAD → funct3Of w = 0b010#3 → P (.instr (.lw (rdOf w) (rs1Of w) (immIOf w))))
    (hlw' : opcodeOf w = opLOAD → funct3Of w ≠ 0b010#3 → P .unsupported)
    (hsw : opcodeOf w = opSTORE → funct3Of w = 0b010#3 → P (.instr (.sw (rs1Of w) (rs2Of w) (immSOf w))))
    (hsw' : opcodeOf w = opSTORE → funct3Of w ≠ 0b010#3 → P .unsupported)
    (hbr : opcodeOf w = opBRANCH → P (decodeBranch w))
    (hjal : opcodeOf w = opJAL → P (.instr (.jal (rdOf w) (offJOf w))))
    (hlui : opcodeOf w = opLUI → P (.instr (.lui (rdOf w) (immUOf w))))
    (hun : w ≠ 0#32 → (∀ o ∈ [opOP, opOPIMM, opLOAD, opSTORE, opBRANCH, opJAL, opLUI], opcodeOf w ≠ o) → P .unrecognized) :
    P (decodeWord w) := by
  unfold decodeWord
  by_cases h1 : w = 0#32
  · rw [if_pos h1]; exact h0 h1
  rw [if_neg h1]
  by_cases h2 : opcodeOf w = opOP
  · rw [if_pos h2]; exact hop h2
  rw [if_neg h2]
  by_cases h3 : opcodeOf w = opOPIMM
  · rw [if_pos h3]; exact himm h3
  rw [if_neg h3]
  by_cases h4 : opcodeOf w = opLOAD
  · rw [if_pos h4]
    by_cases hf : funct3Of w = 0b010#3
    · rw [if_pos hf]; exact hlw h4 hf
    · rw [if_neg hf]; exact hlw' h4 hf
  rw [if_neg h4]
  by_cases h5 : opcodeOf w = opSTORE
  · rw [if_pos h5]
    by_cases hf : funct3Of w = 0b010#3
    · rw [if_pos hf]; exact hsw h5 hf
    · rw [if_neg hf]; exact hsw' h5 hf
  rw [if_neg h5]
  by_cases h6 : opcodeOf w = opBRANCH
  · rw [if_pos h6]; exact hbr h6
  rw [if_neg h6]
  by_cases h7 : opcodeOf w = opJAL
  · rw [if_pos h7]; exact hjal h7
  rw [if_neg h7]
  by_cases h8 : opcodeOf w = opLUI
  · rw [if_pos h8]; exact hlui h8
  rw [if_neg h8]
  exact hun h1 (by simp only [List.mem_cons, List.not_mem_nil, or_false]; rintro o (rfl | rfl | rfl | rfl | rfl | rfl | rfl) <;> assumption)

/-- A word that decodes to an instruction has its opcode and its destination. -/
theorem fieldsAgree_of_decode {w : Word} {i : Instr} (h : decodeWord w = .instr i) : FieldsAgree w i := by
  revert h
  refine decodeWord_cases (P := fun d => d = .instr i → FieldsAgree w i) ?_ decodeOp_agrees decodeOpImm_agrees
    ?_ ?_ ?_ ?_ decodeBranch_agrees ?_ ?_ ?_
  · rintro rfl h; cases h; exact ⟨rfl, fun _ hd => by cases hd⟩
  · intro ho _ h; cases h; exact ⟨ho, fun _ hd => by cases hd; rfl⟩
  · intro _ _ h; cases h
  · intro ho _ h; cases h; exact ⟨ho, fun _ hd => by cases hd⟩
  · intro _ _ h; cases h
  · intro ho h; cases h; exact ⟨ho, fun _ hd => by cases hd; rfl⟩
  · intro ho h; cases h; exact ⟨ho, fun _ hd => by cases hd; rfl⟩
  · intro _ _ h; cases h

/-- The destination of a decoded instruction is the word's rd field. -/
theorem dest_of_decode {w : Word} {i : Instr} {rd : RegIdx} (h : decodeWord w = .instr i) (hd : i.dest? = some rd) :
    rd = rdOf w := (fieldsAgree_of_decode h).2 rd hd

/-- The opcode of a word that decodes to an instruction. -/
theorem opcode_of_decode {w : Word} {i : Instr} (h : decodeWord w = .instr i) : opcodeOf w = i.opcode :=
  (fieldsAgree_of_decode h).1

/-- Whether a word that decodes to an instruction is a branch or JAL (40 R212). -/
theorem isControl_of_decode {w : Word} {i : Instr} (h : decodeWord w = .instr i) :
    isControl w = decide (i.opcode = opBRANCH ∨ i.opcode = opJAL) := by
  simp only [isControl, opcode_of_decode h]

theorem isLoad_iff (w : Word) : isLoad w = true ↔ ∃ rd rs1 imm, decodeWord w = .instr (.lw rd rs1 imm) := by
  unfold isLoad
  split <;> simp_all

theorem isStore_iff (w : Word) : isStore w = true ↔ ∃ rs1 rs2 imm, decodeWord w = .instr (.sw rs1 rs2 imm) := by
  unfold isStore
  split <;> simp_all

@[simp] theorem decodeWord_zero : decodeWord 0#32 = .instr .nop := rfl
@[simp] theorem isLoad_zero : isLoad 0#32 = false := rfl
@[simp] theorem isStore_zero : isStore 0#32 = false := rfl
@[simp] theorem isControl_zero : isControl 0#32 = false := rfl
@[simp] theorem immOf_zero : immOf 0#32 = 0#32 := rfl

end Sys2Proof
end

