-- ==== Sys2Proof/Laws/Memory.lean ====
section
/-! SUPPORT. Memory: reads after writes, and that every memory operation keeps the canonical form (20 R84 to R87, R98; 70 R608). -/

namespace Sys2Proof.Machine

theorem Memory.wf_nil : Memory.wf [] = true := rfl

theorem Memory.wf_iff (m : Memory) :
    m.wf = true ↔ m.Pairwise (fun p q => p.1 < q.1) ∧ ∀ c ∈ m, c.2 ≠ 0#8 := by
  simp [Memory.wf, List.all_eq_true]

theorem Memory.wf_cons (c : Host.Cell) (m : Memory) :
    Memory.wf (c :: m) = true ↔ (∀ d ∈ m, c.1 < d.1) ∧ c.2 ≠ 0#8 ∧ Memory.wf m = true := by
  simp only [Memory.wf_iff, List.pairwise_cons, List.mem_cons, forall_eq_or_imp]
  tauto

/-- An address below every listed one reads 0. -/
theorem Memory.readByte_of_lt (m : Memory) (a : Nat) (h : ∀ d ∈ m, a < d.1) : m.readByte a = 0#8 := by
  induction m with
  | nil => rfl
  | cons c m ih =>
    have hc : c.1 ≠ a := Nat.ne_of_gt (h c (by simp))
    simp only [Memory.readByte, hc, if_false]
    exact ih fun d hd => h d (by simp [hd])

theorem Memory.readByte_writeByte_same (m : Memory) (a : Nat) (v : Byte) (h : m.wf = true) :
    (m.writeByte a v).readByte a = v := by
  induction m with
  | nil => by_cases hv : v = 0#8 <;> simp [Memory.writeByte, Memory.readByte, hv]
  | cons c m ih =>
    obtain ⟨hlt, -, hm⟩ := (Memory.wf_cons c m).1 h
    unfold Memory.writeByte
    split_ifs with h1 hv h2 hv
    · subst hv
      refine Memory.readByte_of_lt _ _ fun d hd => ?_
      rcases List.mem_cons.1 hd with rfl | hd
      · exact h1
      · exact h1.trans (hlt d hd)
    · simp [Memory.readByte]
    · subst h2 hv
      exact Memory.readByte_of_lt _ _ hlt
    · simp [Memory.readByte]
    · simp [Memory.readByte, Ne.symm h2, ih hm]

theorem Memory.readByte_writeByte_other (m : Memory) (a b : Nat) (v : Byte) (h : b ≠ a) :
    (m.writeByte a v).readByte b = m.readByte b := by
  induction m with
  | nil => by_cases hv : v = 0#8 <;> simp [Memory.writeByte, Memory.readByte, hv, Ne.symm h]
  | cons c m ih =>
    unfold Memory.writeByte
    split_ifs with h1 hv h2 hv
    · rfl
    · simp [Memory.readByte, Ne.symm h]
    · simp [Memory.readByte, ← h2, Ne.symm h]
    · simp [Memory.readByte, ← h2, Ne.symm h]
    · simp [Memory.readByte, ih]

/-- The addresses listed after a write: the old ones and the one written. -/
theorem Memory.addr_of_mem_writeByte (m : Memory) (a : Nat) (v : Byte) (d : Host.Cell) (h : d ∈ m.writeByte a v) :
    d.1 = a ∨ d ∈ m := by
  induction m with
  | nil =>
    unfold Memory.writeByte at h
    split_ifs at h <;> simp_all
  | cons c m ih =>
    unfold Memory.writeByte at h
    split_ifs at h <;> simp only [List.mem_cons] at h ⊢
    · exact .inr h
    · rcases h with rfl | h
      · exact .inl rfl
      · exact .inr h
    · exact .inr (.inr h)
    · rcases h with rfl | h
      · exact .inl rfl
      · exact .inr (.inr h)
    · rcases h with rfl | h
      · exact .inr (.inl rfl)
      · exact (ih h).imp id .inr

theorem Memory.wf_writeByte (m : Memory) (a : Nat) (v : Byte) (h : m.wf = true) : (m.writeByte a v).wf = true := by
  induction m with
  | nil => by_cases hv : v = 0#8 <;> simp [Memory.writeByte, Memory.wf, hv]
  | cons c m ih =>
    obtain ⟨hlt, h0, hm⟩ := (Memory.wf_cons c m).1 h
    unfold Memory.writeByte
    split_ifs with h1 hv h2 hv
    · exact h
    · refine (Memory.wf_cons _ _).2 ⟨fun d hd => ?_, hv, h⟩
      rcases List.mem_cons.1 hd with rfl | hd
      · exact h1
      · exact h1.trans (hlt d hd)
    · exact hm
    · exact (Memory.wf_cons _ _).2 ⟨by simpa [h2] using hlt, hv, hm⟩
    · refine (Memory.wf_cons _ _).2 ⟨fun d hd => ?_, h0, ih hm⟩
      rcases Memory.addr_of_mem_writeByte m a v d hd with hd | hd
      · simp only at h1 h2 hd ⊢
        omega
      · exact hlt d hd

theorem Memory.wf_putWord (m : Memory) (a : Nat) (v : Word) (h : m.wf = true) : (m.putWord a v).wf = true := by
  unfold Memory.putWord
  exact Memory.wf_writeByte _ _ _ (Memory.wf_writeByte _ _ _ (Memory.wf_writeByte _ _ _ (Memory.wf_writeByte _ _ _ h)))

/-- `MemWrite` keeps the canonical form. -/
theorem wf_memWrite (cfg : Config) (m : Memory) (a v : Word) (h : m.wf = true) : (memWrite cfg m a v).wf = true := by
  unfold memWrite
  split
  · exact Memory.wf_putWord m _ v h
  · exact h

/-- The program load keeps the canonical form. -/
theorem wf_loadWords (cfg : Config) (ws : List Word) (m : Memory) (a : Word) (h : m.wf = true) :
    (loadWords cfg m a ws).wf = true := by
  induction ws generalizing m a with
  | nil => exact h
  | cons w ws ih => exact ih _ _ (wf_memWrite cfg m a w h)

/-- A byte outside the four of a word store reads as before. -/
theorem Memory.readByte_putWord_other (m : Memory) (a b : Nat) (v : Word) (h : b < a ∨ a + 4 ≤ b) :
    (m.putWord a v).readByte b = m.readByte b := by
  unfold Memory.putWord
  rw [Memory.readByte_writeByte_other _ _ _ _ (by omega), Memory.readByte_writeByte_other _ _ _ _ (by omega),
    Memory.readByte_writeByte_other _ _ _ _ (by omega), Memory.readByte_writeByte_other _ _ _ _ (by omega)]

/-- The four bytes of a word store, the lowest address bits 7:0 (20 R85). -/
theorem Memory.readByte_putWord (m : Memory) (a k : Nat) (v : Word) (hk : k < 4) (h : m.wf = true) :
    (m.putWord a v).readByte (a + k) = byteOf v k := by
  have w0 := Memory.wf_writeByte m a (byteOf v 0) h
  have w1 := Memory.wf_writeByte _ (a + 1) (byteOf v 1) w0
  have w2 := Memory.wf_writeByte _ (a + 2) (byteOf v 2) w1
  unfold Memory.putWord
  obtain rfl | rfl | rfl | rfl : k = 0 ∨ k = 1 ∨ k = 2 ∨ k = 3 := by omega
  · rw [Memory.readByte_writeByte_other _ _ _ _ (by omega), Memory.readByte_writeByte_other _ _ _ _ (by omega),
      Memory.readByte_writeByte_other _ _ _ _ (by omega)]
    exact Memory.readByte_writeByte_same m _ _ h
  · rw [Memory.readByte_writeByte_other _ _ _ _ (by omega), Memory.readByte_writeByte_other _ _ _ _ (by omega)]
    exact Memory.readByte_writeByte_same _ _ _ w0
  · rw [Memory.readByte_writeByte_other _ _ _ _ (by omega)]
    exact Memory.readByte_writeByte_same _ _ _ w1
  · exact Memory.readByte_writeByte_same _ _ _ w2

/-- The word of the four bytes of a word is the word. -/
theorem wordOfBytes_bytes (v : Word) : wordOfBytes (byteOf v 0) (byteOf v 1) (byteOf v 2) (byteOf v 3) = v := by
  apply BitVec.eq_of_getLsbD_eq
  intro i hi
  simp only [wordOfBytes, byteOf, BitVec.getLsbD_append, BitVec.getLsbD_extractLsb']
  split_ifs
  all_goals
    rw [decide_eq_true (by omega), Bool.true_and]
    congr 1
    omega

end Sys2Proof.Machine
end

