-- ==== Sys2Proof/Laws/PerInstr.lean ====
section
/-! SUPPORT. The family EncodesItsRow: the word of every instruction lies in its row of the opcode table, `word &&& mask = match`
(30 R132, spec/opcode_table.json). -/

namespace Sys2Proof.Laws.EncodesItsRow

/-- The encoded word belongs to the instruction's row. -/
def Statement (i : Instr) : Prop := encode i &&& (rowOf i).mask = (rowOf i).value

theorem add (rd rs1 rs2) : Statement (.add rd rs1 rs2) := by
  simp only [Statement, encode, rowOf, mask_all, funct7Of_encR, funct3Of_encR, opcodeOf_encR]
  rfl

theorem sub (rd rs1 rs2) : Statement (.sub rd rs1 rs2) := by
  simp only [Statement, encode, rowOf, mask_all, funct7Of_encR, funct3Of_encR, opcodeOf_encR]
  rfl

theorem sll (rd rs1 rs2) : Statement (.sll rd rs1 rs2) := by
  simp only [Statement, encode, rowOf, mask_all, funct7Of_encR, funct3Of_encR, opcodeOf_encR]
  rfl

theorem slt (rd rs1 rs2) : Statement (.slt rd rs1 rs2) := by
  simp only [Statement, encode, rowOf, mask_all, funct7Of_encR, funct3Of_encR, opcodeOf_encR]
  rfl

theorem sltu (rd rs1 rs2) : Statement (.sltu rd rs1 rs2) := by
  simp only [Statement, encode, rowOf, mask_all, funct7Of_encR, funct3Of_encR, opcodeOf_encR]
  rfl

theorem xor (rd rs1 rs2) : Statement (.xor rd rs1 rs2) := by
  simp only [Statement, encode, rowOf, mask_all, funct7Of_encR, funct3Of_encR, opcodeOf_encR]
  rfl

theorem srl (rd rs1 rs2) : Statement (.srl rd rs1 rs2) := by
  simp only [Statement, encode, rowOf, mask_all, funct7Of_encR, funct3Of_encR, opcodeOf_encR]
  rfl

theorem sra (rd rs1 rs2) : Statement (.sra rd rs1 rs2) := by
  simp only [Statement, encode, rowOf, mask_all, funct7Of_encR, funct3Of_encR, opcodeOf_encR]
  rfl

theorem or (rd rs1 rs2) : Statement (.or rd rs1 rs2) := by
  simp only [Statement, encode, rowOf, mask_all, funct7Of_encR, funct3Of_encR, opcodeOf_encR]
  rfl

theorem and (rd rs1 rs2) : Statement (.and rd rs1 rs2) := by
  simp only [Statement, encode, rowOf, mask_all, funct7Of_encR, funct3Of_encR, opcodeOf_encR]
  rfl

theorem addi (rd rs1 imm) : Statement (.addi rd rs1 imm) := by
  simp only [Statement, encode, rowOf, mask_funct3, funct3Of_encI, opcodeOf_encI]
  rfl

theorem slti (rd rs1 imm) : Statement (.slti rd rs1 imm) := by
  simp only [Statement, encode, rowOf, mask_funct3, funct3Of_encI, opcodeOf_encI]
  rfl

theorem xori (rd rs1 imm) : Statement (.xori rd rs1 imm) := by
  simp only [Statement, encode, rowOf, mask_funct3, funct3Of_encI, opcodeOf_encI]
  rfl

theorem ori (rd rs1 imm) : Statement (.ori rd rs1 imm) := by
  simp only [Statement, encode, rowOf, mask_funct3, funct3Of_encI, opcodeOf_encI]
  rfl

theorem andi (rd rs1 imm) : Statement (.andi rd rs1 imm) := by
  simp only [Statement, encode, rowOf, mask_funct3, funct3Of_encI, opcodeOf_encI]
  rfl

theorem lw (rd rs1 imm) : Statement (.lw rd rs1 imm) := by
  simp only [Statement, encode, rowOf, mask_funct3, funct3Of_encI, opcodeOf_encI]
  rfl

theorem slli (rd rs1 shamt) : Statement (.slli rd rs1 shamt) := by
  simp only [Statement, encode, rowOf, mask_all, funct7Of_encShift, funct3Of_encShift, opcodeOf_encShift]
  rfl

theorem srli (rd rs1 shamt) : Statement (.srli rd rs1 shamt) := by
  simp only [Statement, encode, rowOf, mask_all, funct7Of_encShift, funct3Of_encShift, opcodeOf_encShift]
  rfl

theorem srai (rd rs1 shamt) : Statement (.srai rd rs1 shamt) := by
  simp only [Statement, encode, rowOf, mask_all, funct7Of_encShift, funct3Of_encShift, opcodeOf_encShift]
  rfl

theorem sw (rs1 rs2 imm) : Statement (.sw rs1 rs2 imm) := by
  simp only [Statement, encode, rowOf, mask_funct3, funct3Of_encS, opcodeOf_encS]
  rfl

theorem beq (rs1 rs2 off) : Statement (.beq rs1 rs2 off) := by
  simp only [Statement, encode, rowOf, mask_funct3, funct3Of_encB, opcodeOf_encB]
  rfl

theorem bne (rs1 rs2 off) : Statement (.bne rs1 rs2 off) := by
  simp only [Statement, encode, rowOf, mask_funct3, funct3Of_encB, opcodeOf_encB]
  rfl

theorem blt (rs1 rs2 off) : Statement (.blt rs1 rs2 off) := by
  simp only [Statement, encode, rowOf, mask_funct3, funct3Of_encB, opcodeOf_encB]
  rfl

theorem bge (rs1 rs2 off) : Statement (.bge rs1 rs2 off) := by
  simp only [Statement, encode, rowOf, mask_funct3, funct3Of_encB, opcodeOf_encB]
  rfl

theorem bltu (rs1 rs2 off) : Statement (.bltu rs1 rs2 off) := by
  simp only [Statement, encode, rowOf, mask_funct3, funct3Of_encB, opcodeOf_encB]
  rfl

theorem bgeu (rs1 rs2 off) : Statement (.bgeu rs1 rs2 off) := by
  simp only [Statement, encode, rowOf, mask_funct3, funct3Of_encB, opcodeOf_encB]
  rfl

theorem jal (rd off) : Statement (.jal rd off) := by
  simp only [Statement, encode, rowOf, mask_opcode, opcodeOf_encJ]
  rfl

theorem lui (rd imm) : Statement (.lui rd imm) := by
  simp only [Statement, encode, rowOf, mask_opcode, opcodeOf_encU]
  rfl

theorem nop : Statement .nop := rfl

end Sys2Proof.Laws.EncodesItsRow
end

