-- ==== Sys2Proof/Laws/State.lean ====
section
/-! SUPPORT. One lemma per field per update of the state, true by rfl, so that no later proof unfolds a record update. -/

namespace Sys2Proof.Machine

/-! ### One cycle (40 R285) -/

section
variable (s : State) (e : ExecOut)
@[simp] theorem cycle_cfg : (cycle s e).cfg = s.cfg := rfl
@[simp] theorem cycle_x : (cycle s e).x = writebackRegs s.cfg s.x s.memwb := rfl
@[simp] theorem cycle_hi : (cycle s e).hi = s.hi := rfl
@[simp] theorem cycle_lo : (cycle s e).lo = s.lo := rfl
@[simp] theorem cycle_pc : (cycle s e).pc = cycleFetchAddr s e + 4#32 := rfl
@[simp] theorem cycle_ifid : (cycle s e).ifid = ⟨memRead s.cfg (cycleMem s) (cycleFetchAddr s e), cycleFetchAddr s e⟩ := rfl
@[simp] theorem cycle_idex : (cycle s e).idex = (cycleDecode s e).idex := rfl
@[simp] theorem cycle_exmem : (cycle s e).exmem = e.exmem := rfl
@[simp] theorem cycle_memwb : (cycle s e).memwb = memoryStage s.cfg s.mem s.exmem := rfl
@[simp] theorem cycle_stall : (cycle s e).stall = (cycleDecode s e).stall := rfl
@[simp] theorem cycle_halt : (cycle s e).halt = commitHalt s.halt e.haltEv s.idex := rfl
@[simp] theorem cycle_cycleCount : (cycle s e).cycleCount = s.cycleCount + 1 := rfl
@[simp] theorem cycle_instretCount : (cycle s e).instretCount = s.instretCount + 1 := rfl
@[simp] theorem cycle_mem : (cycle s e).mem = cycleMem s := rfl
end

/-! ### Host commands that write (60 R524, R526) and the sentinel halt (R522) -/

@[simp] theorem setRegister_cfg (r : RegIdx) (v : Word) (s : State) : (setRegister r v s).cfg = s.cfg := rfl
@[simp] theorem setRegister_x (r : RegIdx) (v : Word) (s : State) : (setRegister r v s).x = writeReg s.cfg s.x r v := rfl
@[simp] theorem setRegister_hi (r : RegIdx) (v : Word) (s : State) : (setRegister r v s).hi = s.hi := rfl
@[simp] theorem setRegister_lo (r : RegIdx) (v : Word) (s : State) : (setRegister r v s).lo = s.lo := rfl
@[simp] theorem setRegister_pc (r : RegIdx) (v : Word) (s : State) : (setRegister r v s).pc = s.pc := rfl
@[simp] theorem setRegister_ifid (r : RegIdx) (v : Word) (s : State) : (setRegister r v s).ifid = s.ifid := rfl
@[simp] theorem setRegister_idex (r : RegIdx) (v : Word) (s : State) : (setRegister r v s).idex = s.idex := rfl
@[simp] theorem setRegister_exmem (r : RegIdx) (v : Word) (s : State) : (setRegister r v s).exmem = s.exmem := rfl
@[simp] theorem setRegister_memwb (r : RegIdx) (v : Word) (s : State) : (setRegister r v s).memwb = s.memwb := rfl
@[simp] theorem setRegister_stall (r : RegIdx) (v : Word) (s : State) : (setRegister r v s).stall = s.stall := rfl
@[simp] theorem setRegister_halt (r : RegIdx) (v : Word) (s : State) : (setRegister r v s).halt = s.halt := rfl
@[simp] theorem setRegister_cycleCount (r : RegIdx) (v : Word) (s : State) : (setRegister r v s).cycleCount = s.cycleCount := rfl
@[simp] theorem setRegister_instretCount (r : RegIdx) (v : Word) (s : State) : (setRegister r v s).instretCount = s.instretCount := rfl
@[simp] theorem setRegister_mem (r : RegIdx) (v : Word) (s : State) : (setRegister r v s).mem = s.mem := rfl

@[simp] theorem setHI_cfg (v : Word) (s : State) : (setHI v s).cfg = s.cfg := rfl
@[simp] theorem setHI_x (v : Word) (s : State) : (setHI v s).x = s.x := rfl
@[simp] theorem setHI_hi (v : Word) (s : State) : (setHI v s).hi = v := rfl
@[simp] theorem setHI_lo (v : Word) (s : State) : (setHI v s).lo = s.lo := rfl
@[simp] theorem setHI_pc (v : Word) (s : State) : (setHI v s).pc = s.pc := rfl
@[simp] theorem setHI_ifid (v : Word) (s : State) : (setHI v s).ifid = s.ifid := rfl
@[simp] theorem setHI_idex (v : Word) (s : State) : (setHI v s).idex = s.idex := rfl
@[simp] theorem setHI_exmem (v : Word) (s : State) : (setHI v s).exmem = s.exmem := rfl
@[simp] theorem setHI_memwb (v : Word) (s : State) : (setHI v s).memwb = s.memwb := rfl
@[simp] theorem setHI_stall (v : Word) (s : State) : (setHI v s).stall = s.stall := rfl
@[simp] theorem setHI_halt (v : Word) (s : State) : (setHI v s).halt = s.halt := rfl
@[simp] theorem setHI_cycleCount (v : Word) (s : State) : (setHI v s).cycleCount = s.cycleCount := rfl
@[simp] theorem setHI_instretCount (v : Word) (s : State) : (setHI v s).instretCount = s.instretCount := rfl
@[simp] theorem setHI_mem (v : Word) (s : State) : (setHI v s).mem = s.mem := rfl

@[simp] theorem setLO_cfg (v : Word) (s : State) : (setLO v s).cfg = s.cfg := rfl
@[simp] theorem setLO_x (v : Word) (s : State) : (setLO v s).x = s.x := rfl
@[simp] theorem setLO_hi (v : Word) (s : State) : (setLO v s).hi = s.hi := rfl
@[simp] theorem setLO_lo (v : Word) (s : State) : (setLO v s).lo = v := rfl
@[simp] theorem setLO_pc (v : Word) (s : State) : (setLO v s).pc = s.pc := rfl
@[simp] theorem setLO_ifid (v : Word) (s : State) : (setLO v s).ifid = s.ifid := rfl
@[simp] theorem setLO_idex (v : Word) (s : State) : (setLO v s).idex = s.idex := rfl
@[simp] theorem setLO_exmem (v : Word) (s : State) : (setLO v s).exmem = s.exmem := rfl
@[simp] theorem setLO_memwb (v : Word) (s : State) : (setLO v s).memwb = s.memwb := rfl
@[simp] theorem setLO_stall (v : Word) (s : State) : (setLO v s).stall = s.stall := rfl
@[simp] theorem setLO_halt (v : Word) (s : State) : (setLO v s).halt = s.halt := rfl
@[simp] theorem setLO_cycleCount (v : Word) (s : State) : (setLO v s).cycleCount = s.cycleCount := rfl
@[simp] theorem setLO_instretCount (v : Word) (s : State) : (setLO v s).instretCount = s.instretCount := rfl
@[simp] theorem setLO_mem (v : Word) (s : State) : (setLO v s).mem = s.mem := rfl

@[simp] theorem toggleForwarding_cfg (s : State) : (toggleForwarding s).cfg = s.cfg := rfl
@[simp] theorem toggleForwarding_x (s : State) : (toggleForwarding s).x = s.x := rfl
@[simp] theorem toggleForwarding_hi (s : State) : (toggleForwarding s).hi = s.hi := rfl
@[simp] theorem toggleForwarding_lo (s : State) : (toggleForwarding s).lo = s.lo := rfl
@[simp] theorem toggleForwarding_pc (s : State) : (toggleForwarding s).pc = s.pc := rfl
@[simp] theorem toggleForwarding_ifid (s : State) : (toggleForwarding s).ifid = s.ifid := rfl
@[simp] theorem toggleForwarding_idex (s : State) : (toggleForwarding s).idex = s.idex := rfl
@[simp] theorem toggleForwarding_exmem (s : State) : (toggleForwarding s).exmem = s.exmem := rfl
@[simp] theorem toggleForwarding_memwb (s : State) : (toggleForwarding s).memwb = s.memwb := rfl
@[simp] theorem toggleForwarding_stall (s : State) : (toggleForwarding s).stall = { s.stall with forwarding := !s.stall.forwarding } := rfl
@[simp] theorem toggleForwarding_halt (s : State) : (toggleForwarding s).halt = s.halt := rfl
@[simp] theorem toggleForwarding_cycleCount (s : State) : (toggleForwarding s).cycleCount = s.cycleCount := rfl
@[simp] theorem toggleForwarding_instretCount (s : State) : (toggleForwarding s).instretCount = s.instretCount := rfl
@[simp] theorem toggleForwarding_mem (s : State) : (toggleForwarding s).mem = s.mem := rfl

@[simp] theorem haltAtSentinel_cfg (s : State) : (haltAtSentinel s).cfg = s.cfg := rfl
@[simp] theorem haltAtSentinel_x (s : State) : (haltAtSentinel s).x = s.x := rfl
@[simp] theorem haltAtSentinel_hi (s : State) : (haltAtSentinel s).hi = s.hi := rfl
@[simp] theorem haltAtSentinel_lo (s : State) : (haltAtSentinel s).lo = s.lo := rfl
@[simp] theorem haltAtSentinel_pc (s : State) : (haltAtSentinel s).pc = s.pc := rfl
@[simp] theorem haltAtSentinel_ifid (s : State) : (haltAtSentinel s).ifid = s.ifid := rfl
@[simp] theorem haltAtSentinel_idex (s : State) : (haltAtSentinel s).idex = s.idex := rfl
@[simp] theorem haltAtSentinel_exmem (s : State) : (haltAtSentinel s).exmem = s.exmem := rfl
@[simp] theorem haltAtSentinel_memwb (s : State) : (haltAtSentinel s).memwb = s.memwb := rfl
@[simp] theorem haltAtSentinel_stall (s : State) : (haltAtSentinel s).stall = s.stall := rfl
@[simp] theorem haltAtSentinel_halt (s : State) : (haltAtSentinel s).halt = ⟨true, .endSentinel, s.pc, 0#32⟩ := rfl
@[simp] theorem haltAtSentinel_cycleCount (s : State) : (haltAtSentinel s).cycleCount = s.cycleCount := rfl
@[simp] theorem haltAtSentinel_instretCount (s : State) : (haltAtSentinel s).instretCount = s.instretCount := rfl
@[simp] theorem haltAtSentinel_mem (s : State) : (haltAtSentinel s).mem = s.mem := rfl

@[simp] theorem issueWord_cfg (w : Word) (s : State) : (issueWord w s).cfg = s.cfg := rfl
@[simp] theorem issueWord_x (w : Word) (s : State) : (issueWord w s).x = s.x := rfl
@[simp] theorem issueWord_hi (w : Word) (s : State) : (issueWord w s).hi = s.hi := rfl
@[simp] theorem issueWord_lo (w : Word) (s : State) : (issueWord w s).lo = s.lo := rfl
@[simp] theorem issueWord_pc (w : Word) (s : State) : (issueWord w s).pc = s.pc := rfl
@[simp] theorem issueWord_ifid (w : Word) (s : State) : (issueWord w s).ifid = s.ifid := rfl
@[simp] theorem issueWord_idex (w : Word) (s : State) : (issueWord w s).idex = passLatch s.cfg false ⟨s.x, EXMEM.zero, MEMWB.zero⟩ ⟨w, s.pc⟩ := rfl
@[simp] theorem issueWord_exmem (w : Word) (s : State) : (issueWord w s).exmem = s.exmem := rfl
@[simp] theorem issueWord_memwb (w : Word) (s : State) : (issueWord w s).memwb = s.memwb := rfl
@[simp] theorem issueWord_stall (w : Word) (s : State) : (issueWord w s).stall = { s.stall with mode := if isControl w then .branchBubble else .normal, remaining := 0 } := rfl
@[simp] theorem issueWord_halt (w : Word) (s : State) : (issueWord w s).halt = HaltState.clear := rfl
@[simp] theorem issueWord_cycleCount (w : Word) (s : State) : (issueWord w s).cycleCount = s.cycleCount := rfl
@[simp] theorem issueWord_instretCount (w : Word) (s : State) : (issueWord w s).instretCount = s.instretCount := rfl
@[simp] theorem issueWord_mem (w : Word) (s : State) : (issueWord w s).mem = s.mem := rfl

/-! ### The cleared state (70 R600) -/

@[simp] theorem cleared_cfg (cfg : Config) (f : Bool) : (State.cleared cfg f).cfg = cfg := rfl
@[simp] theorem cleared_x (cfg : Config) (f : Bool) : (State.cleared cfg f).x = Vector.replicate 32 0#32 := rfl
@[simp] theorem cleared_hi (cfg : Config) (f : Bool) : (State.cleared cfg f).hi = 0#32 := rfl
@[simp] theorem cleared_lo (cfg : Config) (f : Bool) : (State.cleared cfg f).lo = 0#32 := rfl
@[simp] theorem cleared_pc (cfg : Config) (f : Bool) : (State.cleared cfg f).pc = cfg.textBase := rfl
@[simp] theorem cleared_ifid (cfg : Config) (f : Bool) : (State.cleared cfg f).ifid = IFID.zero := rfl
@[simp] theorem cleared_idex (cfg : Config) (f : Bool) : (State.cleared cfg f).idex = IDEX.zero := rfl
@[simp] theorem cleared_exmem (cfg : Config) (f : Bool) : (State.cleared cfg f).exmem = EXMEM.zero := rfl
@[simp] theorem cleared_memwb (cfg : Config) (f : Bool) : (State.cleared cfg f).memwb = MEMWB.zero := rfl
@[simp] theorem cleared_stall (cfg : Config) (f : Bool) : (State.cleared cfg f).stall = ⟨.normal, 0, 0#7, 0#5, f⟩ := rfl
@[simp] theorem cleared_halt (cfg : Config) (f : Bool) : (State.cleared cfg f).halt = HaltState.clear := rfl
@[simp] theorem cleared_cycleCount (cfg : Config) (f : Bool) : (State.cleared cfg f).cycleCount = 0 := rfl
@[simp] theorem cleared_instretCount (cfg : Config) (f : Bool) : (State.cleared cfg f).instretCount = 0 := rfl
@[simp] theorem cleared_mem (cfg : Config) (f : Bool) : (State.cleared cfg f).mem = [] := rfl

end Sys2Proof.Machine
end

