-- ==== Sys2Proof/Laws/Step.lean ====
section
/-! SUPPORT. What a step can do, said once: `exec_eq_cycle`, `step_eq` and `step_cases`; and what a register write, writeback's stall
logic and the memory stage can do. -/

namespace Sys2Proof.Machine

/-! ### Execute's outputs -/

/-- What execute produces for each instruction, beside the meanings, for proofs that speak of all instructions. -/
def execOut (i : Instr) (s : State) : ExecOut :=
  match i with
  | .add rd _ _ => .writes s.idex rd (s.idex.opA + s.idex.opB)
  | .sub rd _ _ => .writes s.idex rd (s.idex.opA - s.idex.opB)
  | .sll rd _ _ => .writes s.idex rd (s.idex.opA <<< shiftAmount s.idex.opB)
  | .slt rd _ _ => .writes s.idex rd (boolWord (condLt s.idex.opA s.idex.opB))
  | .sltu rd _ _ => .writes s.idex rd (boolWord (condLtu s.idex.opA s.idex.opB))
  | .xor rd _ _ => .writes s.idex rd (s.idex.opA ^^^ s.idex.opB)
  | .srl rd _ _ => .writes s.idex rd (s.idex.opA >>> shiftAmount s.idex.opB)
  | .sra rd _ _ => .writes s.idex rd (s.idex.opA.sshiftRight (shiftAmount s.idex.opB))
  | .or rd _ _ => .writes s.idex rd (s.idex.opA ||| s.idex.opB)
  | .and rd _ _ => .writes s.idex rd (s.idex.opA &&& s.idex.opB)
  | .addi rd _ _ => .writes s.idex rd (s.idex.opA + s.idex.imm)
  | .slti rd _ _ => .writes s.idex rd (boolWord (condLt s.idex.opA s.idex.imm))
  | .xori rd _ _ => .writes s.idex rd (s.idex.opA ^^^ s.idex.imm)
  | .ori rd _ _ => .writes s.idex rd (s.idex.opA ||| s.idex.imm)
  | .andi rd _ _ => .writes s.idex rd (s.idex.opA &&& s.idex.imm)
  | .slli rd _ _ => .writes s.idex rd (s.idex.opA <<< shiftAmount s.idex.imm)
  | .srli rd _ _ => .writes s.idex rd (s.idex.opA >>> shiftAmount s.idex.imm)
  | .srai rd _ _ => .writes s.idex rd (s.idex.opA.sshiftRight (shiftAmount s.idex.imm))
  | .lui rd _ => if s.cfg.luiWritesRd then .writes s.idex rd s.idex.imm else .silent s.idex s.idex.imm
  | .lw rd _ _ => .writes s.idex rd (s.idex.opA + s.idex.imm)
  | .sw _ _ _ => .silent s.idex (s.idex.opA + s.idex.imm)
  | .beq _ _ _ => .branch s.idex (condEq s.idex.opA s.idex.opB)
  | .bne _ _ _ => .branch s.idex (condNe s.idex.opA s.idex.opB)
  | .blt _ _ _ => .branch s.idex (condLt s.idex.opA s.idex.opB)
  | .bge _ _ _ => .branch s.idex (condGe s.idex.opA s.idex.opB)
  | .bltu _ _ _ => .branch s.idex (condLtu s.idex.opA s.idex.opB)
  | .bgeu _ _ _ => .branch s.idex (condGeu s.idex.opA s.idex.opB)
  | .jal rd _ => .jump s.idex rd
  | .nop => .bubble .noHalt

/-- Every meaning is one cycle with the instruction's execute output. -/
theorem exec_eq_cycle (i : Instr) (s : State) : exec i s = .next (cycle s (execOut i s)) := by
  cases i <;> rfl

/-- What execute produces for the word in `IDEX` (40 R242, R246). -/
def execOutWord (s : State) : ExecOut :=
  match decodeWord s.idex.word with
  | .instr i => execOut i s
  | .unrecognized => .bubble .unrecognizedOpcode
  | .unsupported => .bubble .unsupportedFunct

/-- A step: the state as it is when halted, else one cycle. -/
theorem step_eq (s : State) :
    step s = .next (if s.halt.halted then s else cycle s (execOutWord s)) := by
  unfold step execOutWord
  cases hh : s.halt.halted with
  | true => simp
  | false =>
    cases hd : decodeWord s.idex.word with
    | instr i => simp [exec_eq_cycle]
    | unrecognized => simp [haltCycle]
    | unsupported => simp [haltCycle]

/-- The inversion of a step: halted and unchanged, or running and one cycle. -/
theorem step_cases {s t : State} (h : step s = .next t) :
    (s.halt.halted = true ∧ t = s) ∨ (s.halt.halted = false ∧ t = cycle s (execOutWord s)) := by
  rw [step_eq] at h
  injection h with h
  cases hh : s.halt.halted <;> simp_all

theorem step_running {s : State} (h : s.halt.halted = false) : step s = .next (cycle s (execOutWord s)) := by
  simp [step_eq, h]

theorem step_halted {s : State} (h : s.halt.halted = true) : step s = .next s := by
  simp [step_eq, h]

theorem execOutWord_instr {s : State} {i : Instr} (h : decodeWord s.idex.word = .instr i) :
    execOutWord s = execOut i s := by
  simp [execOutWord, h]

/-- A run over a machine peels off its first step. -/
theorem core_run_succ (M : Host.Core) {s t : M.State} (h : M.step s = .next t) (n : Nat) :
    Host.Core.run M (n + 1) s = Host.Core.run M n t := by
  simp only [Host.Core.run, h]

/-- The same for this core, in the model's own names. -/
theorem run_succ {s t : State} (h : step s = .next t) (n : Nat) :
    Host.Core.run core (n + 1) s = Host.Core.run core n t :=
  core_run_succ core h n

/-- No instruction of the table raises a halt event (40 R241). -/
@[simp] theorem execOut_haltEv (i : Instr) (s : State) : (execOut i s).haltEv = .noHalt := by
  cases i <;> first | rfl | (simp only [execOut]; split <;> rfl)

/-! ### Registers (10 R32, R33) -/

theorem readReg_writeReg_same (cfg : Config) (x : Vector Word 32) (r : RegIdx) (v : Word) :
    readReg cfg (writeReg cfg x r v) r = if cfg.x0HardwiredZero = true ∧ r = 0#5 then 0#32 else v := by
  unfold readReg writeReg
  split
  · rfl
  · rw [Vector.get_eq_getElem]
    exact Vector.getElem_set_self r.isLt

theorem readReg_writeReg_other (cfg : Config) (x : Vector Word 32) (r q : RegIdx) (v : Word) (h : q ≠ r) :
    readReg cfg (writeReg cfg x r v) q = readReg cfg x q := by
  unfold readReg writeReg
  have hn : r.toNat ≠ q.toNat := fun e => h (BitVec.eq_of_toNat_eq e.symm)
  split
  · rfl
  · split
    · rfl
    · simp only [Vector.get_eq_getElem]
      exact Vector.getElem_set_ne _ _ (by simpa using hn)

/-! ### Stages -/

@[simp] theorem commitHalt_none (h : HaltState) (d : IDEX) : commitHalt h .noHalt d = h := rfl

theorem commitHalt_event (h : HaltState) (r : HaltReason) (d : IDEX) (hr : r ≠ .noHalt) :
    commitHalt h r d = ⟨true, r, d.pc, d.word⟩ := by
  simp [commitHalt, hr]

@[simp] theorem releaseStall_forwarding (st : StallState) (l : MEMWB) :
    (releaseStall st l).forwarding = st.forwarding := by
  unfold releaseStall
  split <;> [split; rfl; rfl] <;> rfl

@[simp] theorem enterStall_forwarding (st : StallState) (b : Bypass) (w : Word) :
    (enterStall st b w).forwarding = st.forwarding := by
  unfold enterStall
  split <;> rfl

/-- No stage writes the forwarding flag (10 R49). -/
@[simp] theorem cycleDecode_forwarding (s : State) (e : ExecOut) :
    (cycleDecode s e).stall.forwarding = s.stall.forwarding := by
  rw [← releaseStall_forwarding s.stall s.memwb]
  unfold cycleDecode decodeStage decodeNormal
  split
  · rfl
  · rfl
  · split_ifs <;> simp

@[simp] theorem memoryStage_word (cfg : Config) (m : Memory) (l : EXMEM) : (memoryStage cfg m l).word = l.word := rfl
@[simp] theorem memoryStage_aluOut (cfg : Config) (m : Memory) (l : EXMEM) : (memoryStage cfg m l).aluOut = l.aluOut := rfl
@[simp] theorem memoryStage_regWrite (cfg : Config) (m : Memory) (l : EXMEM) :
    (memoryStage cfg m l).regWrite = l.regWrite := rfl
@[simp] theorem memoryStage_rd (cfg : Config) (m : Memory) (l : EXMEM) : (memoryStage cfg m l).rd = l.rd := rfl

/-- The memory stage writes nothing for a word that is not SW (40 R232). -/
theorem memoryStageMem_of_not_store {cfg : Config} {m : Memory} {l : EXMEM} (h : isStore l.word = false) :
    memoryStageMem cfg m l = m := by
  simp [memoryStageMem, h]

end Sys2Proof.Machine
end

