-- ==== Sys2Proof/Tests/Slice0.lean ====
section
/-! SUPPORT. Tests: the well-formedness smoke, a word of every constructor, one step of every instruction against the vectors of
spec/95_test_vectors.md, and for every obligation with hypotheses a concrete state and operands that meet them. -/

namespace Sys2Proof.Tests

open Sys2Proof.Machine

/-! ### Well-formedness: an odd offset is refused, an even one accepted (30 R126, R127) -/

theorem test_wf_beq : (Instr.beq 1#5 2#5 9#13).wellFormed = false := by decide
theorem test_wf_bne : (Instr.bne 1#5 2#5 0x1FFF#13).wellFormed = false := by decide
theorem test_wf_blt : (Instr.blt 0#5 31#5 1#13).wellFormed = false := by decide
theorem test_wf_bge : (Instr.bge 1#5 2#5 0x0FFF#13).wellFormed = false := by decide
theorem test_wf_bltu : (Instr.bltu 1#5 2#5 3#13).wellFormed = false := by decide
theorem test_wf_bgeu : (Instr.bgeu 1#5 2#5 0x1001#13).wellFormed = false := by decide
theorem test_wf_jal : (Instr.jal 1#5 0x0FFFFF#21).wellFormed = false := by decide
theorem test_wf_accepts : (Instr.beq 1#5 2#5 0x1000#13).wellFormed = true ∧ (Instr.jal 1#5 0x0FFFFE#21).wellFormed = true := by
  decide

/-! ### Decoding: one word of every constructor, from the encodings of 30 R123, R132 (95 V-DEC, V-R, V-I, W3, W4) -/

theorem test_decode_add : decodeWord 0x002081B3#32 = .instr (.add 3#5 1#5 2#5) := by decide
theorem test_decode_sub : decodeWord 0x402081B3#32 = .instr (.sub 3#5 1#5 2#5) := by decide
theorem test_decode_sll : decodeWord 0x002091B3#32 = .instr (.sll 3#5 1#5 2#5) := by decide
theorem test_decode_slt : decodeWord 0x0020A1B3#32 = .instr (.slt 3#5 1#5 2#5) := by decide
theorem test_decode_sltu : decodeWord 0x0020B1B3#32 = .instr (.sltu 3#5 1#5 2#5) := by decide
theorem test_decode_xor : decodeWord 0x0020C1B3#32 = .instr (.xor 3#5 1#5 2#5) := by decide
theorem test_decode_srl : decodeWord 0x0020D1B3#32 = .instr (.srl 3#5 1#5 2#5) := by decide
theorem test_decode_sra : decodeWord 0x4020D1B3#32 = .instr (.sra 3#5 1#5 2#5) := by decide
theorem test_decode_or : decodeWord 0x0020E1B3#32 = .instr (.or 3#5 1#5 2#5) := by decide
theorem test_decode_and : decodeWord 0x0020F1B3#32 = .instr (.and 3#5 1#5 2#5) := by decide
theorem test_decode_addi : decodeWord 0x80008193#32 = .instr (.addi 3#5 1#5 0x800#12) := by decide
theorem test_decode_slti : decodeWord 0xFFF0A193#32 = .instr (.slti 3#5 1#5 0xFFF#12) := by decide
theorem test_decode_xori : decodeWord 0x7FF0C193#32 = .instr (.xori 3#5 1#5 0x7FF#12) := by decide
theorem test_decode_ori : decodeWord 0x0F00E193#32 = .instr (.ori 3#5 1#5 0x0F0#12) := by decide
theorem test_decode_andi : decodeWord 0xF000F193#32 = .instr (.andi 3#5 1#5 0xF00#12) := by decide
theorem test_decode_slli : decodeWord 0x01F09193#32 = .instr (.slli 3#5 1#5 31#5) := by decide
theorem test_decode_srli : decodeWord 0x0040D193#32 = .instr (.srli 3#5 1#5 4#5) := by decide
theorem test_decode_srai : decodeWord 0x41F0D193#32 = .instr (.srai 3#5 1#5 31#5) := by decide
theorem test_decode_lui : decodeWord 0x123452B7#32 = .instr (.lui 5#5 0x12345#20) := by decide
theorem test_decode_lw : decodeWord 0x7FF0A283#32 = .instr (.lw 5#5 1#5 0x7FF#12) := by decide
theorem test_decode_sw : decodeWord 0x8020A023#32 = .instr (.sw 1#5 2#5 0x800#12) := by decide
theorem test_decode_beq : decodeWord 0xFE208CE3#32 = .instr (.beq 1#5 2#5 0x1FF8#13) := by decide
theorem test_decode_bne : decodeWord 0xFE209CE3#32 = .instr (.bne 1#5 2#5 0x1FF8#13) := by decide
theorem test_decode_blt : decodeWord 0x0020C463#32 = .instr (.blt 1#5 2#5 8#13) := by decide
theorem test_decode_bge : decodeWord 0x0020D463#32 = .instr (.bge 1#5 2#5 8#13) := by decide
theorem test_decode_bltu : decodeWord 0x0020E163#32 = .instr (.bltu 1#5 2#5 2#13) := by decide
theorem test_decode_bgeu : decodeWord 0x0020F063#32 = .instr (.bgeu 1#5 2#5 0#13) := by decide
theorem test_decode_jal : decodeWord 0xFF1FF0EF#32 = .instr (.jal 1#5 0x1FFFF0#21) := by decide
theorem test_decode_nop : decodeWord 0x00000000#32 = .instr .nop := by decide

/-- 95 W3, W4: the extreme branch and jump offsets. -/
theorem test_decode_extreme_offsets :
    decodeWord 0x7E208FE3#32 = .instr (.beq 1#5 2#5 0x0FFE#13) ∧ decodeWord 0x80208063#32 = .instr (.beq 1#5 2#5 0x1000#13) ∧
    decodeWord 0x7FFFF0EF#32 = .instr (.jal 1#5 0x0FFFFE#21) ∧ decodeWord 0x800000EF#32 = .instr (.jal 1#5 0x100000#21) := by
  decide

/-- 95 V-DEC-12 to V-DEC-20. -/
theorem test_decode_unsupported :
    [0x00003083#32, 0x00001023#32, 0x0010B193#32, 0x02208033#32, 0x40009093#32, 0x02009093#32, 0x0200D093#32,
      0x00002063#32, 0x00003063#32].all (fun w => decodeWord w == .unsupported) = true := by decide

/-- 95 V-DEC-21 to V-DEC-27. -/
theorem test_decode_unrecognized :
    [0x00000073#32, 0x00008067#32, 0x00000017#32, 0x0000000F#32, 0x0000007F#32, 0x0000207F#32, 0x00000001#32].all
      (fun w => decodeWord w == .unrecognized) = true := by decide

/-- 95 V-DEC-4, 8, 9, 11 and W3, W4: immediates. -/
theorem test_immediates :
    immOf 0xFFC0A283#32 = 0xFFFFFFFC#32 ∧ immOf 0x8020A023#32 = 0xFFFFF800#32 ∧ immOf 0x123452B7#32 = 0x12345000#32 ∧
    immOf 0x4040D193#32 = 0x00000404#32 ∧ immOf 0x80208063#32 = 0xFFFFF000#32 ∧ immOf 0x7FFFF0EF#32 = 0x000FFFFE#32 := by
  decide

/-! ### Small states -/

/-- A state with two words of program in text, `x1` to `x3` and two data words set, as after some cycles (95 V-M, W7). -/
def base : State :=
  { State.cleared { Config.example with image := some [0x002081B3#32, 0x00018233#32] } false with
    x := ((((Vector.replicate 32 0#32).set 1 5#32).set 2 7#32).set 3 0x33#32)
    pc := 8#32
    ifid := ⟨0#32, 4#32⟩
    cycleCount := 2
    instretCount := 2
    mem := [(0, 0xB3#8), (1, 0x81#8), (2, 0x20#8), (4, 0x33#8), (5, 0x82#8), (6, 0x01#8), (0x1000, 0x2A#8),
      (0x1004, 0x44#8), (0x1005, 0x33#8), (0x1006, 0x22#8), (0x1007, 0x11#8)] }

/-- `w` in execute at address 0x100 with the operands latched, everything else as in `base`. -/
def put (w a b : Word) : State :=
  { base with
    idex := ⟨w, 0x100#32, a, b, immOf w⟩
    stall := { base.stall with mode := if isControl w then .branchBubble else .normal } }

/-- The state a step answers. -/
def after (s : State) : State :=
  match step s with
  | .next t => t
  | .fault _ => s
  | .refused _ => s

theorem step_after (s : State) : step s = .next (after s) := by
  simp only [after, step_eq]

/-- `EXMEM'.aluOut` of the cycle with `w` in execute. -/
def aluOf (w a b : Word) : Word := (after (put w a b)).exmem.aluOut

/-- The fetch address of the cycle with `w` in execute. -/
def targetOf (w a b : Word) : Word := (after (put w a b)).ifid.pc

/-! ### One step of every instruction (95 V-R, V-I, V-U, V-M, V-BR, V-J, V-NOP, V-HALT) -/

theorem test_add : aluOf 0x002081B3#32 0x7FFFFFFF#32 1#32 = 0x80000000#32 ∧ aluOf 0x002081B3#32 0xFFFFFFFF#32 1#32 = 0#32 := by
  decide
theorem test_sub : aluOf 0x402081B3#32 5#32 7#32 = 0xFFFFFFFE#32 := by decide
theorem test_sll : aluOf 0x002091B3#32 1#32 0x20#32 = 1#32 ∧ aluOf 0x002091B3#32 3#32 0xFFFFFFE1#32 = 6#32 := by decide
theorem test_slt : aluOf 0x0020A1B3#32 0xFFFFFFFF#32 1#32 = 1#32 ∧ aluOf 0x0020A1B3#32 1#32 0xFFFFFFFF#32 = 0#32 := by decide
theorem test_sltu : aluOf 0x0020B1B3#32 0xFFFFFFFF#32 1#32 = 0#32 ∧ aluOf 0x0020B1B3#32 1#32 0xFFFFFFFF#32 = 1#32 := by decide
theorem test_xor : aluOf 0x0020C1B3#32 0xFF00FF00#32 0x0FF00FF0#32 = 0xF0F0F0F0#32 := by decide
theorem test_srl : aluOf 0x0020D1B3#32 0x80000000#32 0x21#32 = 0x40000000#32 := by decide
theorem test_sra : aluOf 0x4020D1B3#32 0x80000000#32 4#32 = 0xF8000000#32 ∧ aluOf 0x4020D1B3#32 0xFFFFFFF0#32 0x40#32 = 0xFFFFFFF0#32 := by
  decide
theorem test_or : aluOf 0x0020E1B3#32 0xF0F0F0F0#32 0x0F0F0F0F#32 = 0xFFFFFFFF#32 := by decide
theorem test_and : aluOf 0x0020F1B3#32 0xF0F0F0F0#32 0xFF00FF00#32 = 0xF000F000#32 := by decide
theorem test_addi : aluOf 0x80008193#32 0#32 9#32 = 0xFFFFF800#32 := by decide
theorem test_slti : aluOf 0xFFF0A193#32 0xFFFFFFFE#32 9#32 = 1#32 ∧ aluOf 0xFFF0A193#32 0#32 9#32 = 0#32 := by decide
theorem test_xori : aluOf 0xFFF0C193#32 0x12345678#32 9#32 = 0xEDCBA987#32 := by decide
theorem test_ori : aluOf 0x8000E193#32 1#32 9#32 = 0xFFFFF801#32 := by decide
theorem test_andi : aluOf 0xF000F193#32 0x12345678#32 9#32 = 0x12345600#32 := by decide
theorem test_slli : aluOf 0x00409193#32 0x12345678#32 9#32 = 0x23456780#32 := by decide
theorem test_srli : aluOf 0x0040D193#32 0xFFFFFFF0#32 9#32 = 0x0FFFFFFF#32 := by decide
theorem test_srai : aluOf 0x4040D193#32 0xFFFFFFF0#32 9#32 = 0xFFFFFFFF#32 ∧ aluOf 0x4000D193#32 0x80000001#32 9#32 = 0x80000001#32 := by
  decide

/-- 95 V-U-1, V-U-2. -/
theorem test_lui :
    (after (put 0x123452B7#32 0#32 0#32)).exmem = ⟨0x123452B7#32, 0#32, 0#32, 0x12345000#32, false, 0#5⟩ ∧
    (after { put 0x123452B7#32 0#32 0#32 with cfg := { base.cfg with luiWritesRd := true } }).exmem =
      ⟨0x123452B7#32, 0#32, 0#32, 0x12345000#32, true, 5#5⟩ := by decide

/-- 95 V-M-2: the address, then the loaded word. -/
theorem test_lw : aluOf 0xFFC0A283#32 0x1008#32 0#32 = 0x1004#32 ∧
    (after (after (put 0xFFC0A283#32 0x1008#32 0#32))).memwb.memData = 0x11223344#32 := by decide

/-- 95 V-M-3, V-M-4, V-M-6: misaligned and out-of-range loads give 0. -/
theorem test_lw_outside : [0x1002#32, 0x2000#32, 0xFFFFFFFC#32].all (fun a =>
    (after (after (put 0x0000A283#32 a 0#32))).memwb.memData == 0#32) = true := by decide

/-- 95 V-M-8: the bytes of a store, the lowest address bits 7:0. -/
theorem test_sw : dumpMemory (after (after (put 0x0020A023#32 0x1000#32 0x12345678#32))) 0x1000 5 =
    [0x78#8, 0x56#8, 0x34#8, 0x12#8, 0x44#8] := by decide

/-- 95 V-M-11, V-M-12: misaligned and out-of-range stores change no byte. -/
theorem test_sw_outside : [0x1001#32, 0x3000#32].all (fun a =>
    (after (after (put 0x0020A023#32 a 0xFFFFFFFF#32))).mem == base.mem) = true := by decide

/-- 95 V-BR-1, V-BR-2, V-BR-32. -/
theorem test_beq : targetOf 0x00208463#32 5#32 5#32 = 0x108#32 ∧ targetOf 0x00208463#32 5#32 6#32 = 0x104#32 ∧
    targetOf 0x80208063#32 5#32 5#32 = 0xFFFFF100#32 := by decide
theorem test_bne : targetOf 0xFE209CE3#32 5#32 6#32 = 0x0F8#32 ∧ targetOf 0x00209463#32 5#32 5#32 = 0x104#32 := by decide
theorem test_blt : targetOf 0x0020C463#32 0x80000000#32 0x7FFFFFFF#32 = 0x108#32 ∧
    targetOf 0x0020C463#32 1#32 0xFFFFFFFF#32 = 0x104#32 := by decide
theorem test_bge : targetOf 0x0020D463#32 1#32 0xFFFFFFFF#32 = 0x108#32 ∧ targetOf 0x0020D463#32 5#32 6#32 = 0x104#32 ∧
    targetOf 0x0020D463#32 5#32 5#32 = 0x108#32 := by decide
theorem test_bltu : targetOf 0x0020E463#32 1#32 0xFFFFFFFF#32 = 0x108#32 ∧
    targetOf 0x0020E463#32 0x80000000#32 0x7FFFFFFF#32 = 0x104#32 := by decide
theorem test_bgeu : targetOf 0x0020F463#32 0xFFFFFFFF#32 1#32 = 0x108#32 ∧ targetOf 0x0020F463#32 5#32 6#32 = 0x104#32 ∧
    targetOf 0x0020F463#32 5#32 5#32 = 0x108#32 := by decide

/-- 95 V-J-1, V-J-2: the target and the link. -/
theorem test_jal : targetOf 0x100000EF#32 0#32 0#32 = 0x200#32 ∧ aluOf 0x100000EF#32 0#32 0#32 = 0x104#32 ∧
    targetOf 0xFF1FF06F#32 0#32 0#32 = 0x0F0#32 := by decide

/-- 95 V-J-2, V-J-5: the link in `x0`, and nothing where it is hardwired. -/
theorem test_jal_x0 : (after (after (after (put 0xFF1FF06F#32 0#32 0#32)))).reg 0#5 = 0x104#32 ∧
    (after (after (after { put 0xFF1FF06F#32 0#32 0#32 with cfg := { base.cfg with x0HardwiredZero := true } }))).reg 0#5 = 0#32 := by
  decide

/-- 95 V-NOP-1. -/
theorem test_nop : (after (put 0#32 0#32 0#32)).exmem = EXMEM.zero ∧ (after (put 0#32 0#32 0#32)).halt.halted = false := by decide

/-- 95 V-HALT-1, V-HALT-5: the halt records. -/
theorem test_halt : (after (put 0x0000007F#32 0#32 0#32)).halt = ⟨true, .unrecognizedOpcode, 0x100#32, 0x7F#32⟩ ∧
    (after (put 0x0010B193#32 0#32 0#32)).halt = ⟨true, .unsupportedFunct, 0x100#32, 0x0010B193#32⟩ := by decide

/-- The result reaches `x3` two cycles after execute, and not before (95 W1). -/
theorem test_writeback : (after (after (put 0x002081B3#32 1#32 1#32))).reg 3#5 = 0x33#32 ∧
    (after (after (after (put 0x002081B3#32 1#32 1#32)))).reg 3#5 = 2#32 := by decide

/-! ### The pipeline (95 W7) -/

/-- W7 after cycle 2: `add x3, x1, x2` in execute, `add x4, x3, x0` in decode. -/
def w7 : State :=
  { base with idex := ⟨0x002081B3#32, 0#32, 5#32, 7#32, 0#32⟩, ifid := ⟨0x00018233#32, 4#32⟩ }

/-- W7 after cycle 3 without forwarding: the stall entered, the producer in the memory stage. -/
def w7Stalled : State :=
  { base with
    ifid := ⟨0x00018233#32, 4#32⟩
    exmem := ⟨0x002081B3#32, 5#32, 7#32, 12#32, true, 3#5⟩
    stall := ⟨.stalled, 2, 0b0110011#7, 3#5, false⟩ }

/-- The producer in the memory stage, its reader in decode, nothing in execute (95 V-HZ-2n). -/
def oneAhead : State := { w7Stalled with stall := base.stall }

/-- A BEQ in decode. -/
def branchInDecode : State := { base with ifid := ⟨0x00208463#32, 4#32⟩ }

/-- Without forwarding, cycle 3 of W7 enters the stall and keeps the fetch address (40 R264). -/
theorem test_w7_stall : (after w7).stall = ⟨.stalled, 2, 0b0110011#7, 3#5, false⟩ ∧ (after w7).ifid = ⟨0x00018233#32, 4#32⟩ ∧
    (after w7Stalled).stall.remaining = 1 ∧ (after (after w7Stalled)).idex.opA = 0xC#32 := by decide

/-- With forwarding, cycle 3 of W7 passes the second ADD with 0xC from `EXMEM'`. -/
theorem test_w7_forward : (after (toggleForwarding w7)).idex = ⟨0x00018233#32, 4#32, 0xC#32, 0#32, 0#32⟩ := by decide

/-- 40 R200, 95 V-SMC: the ports in the cycle in which SW to 8 is in the memory stage and fetch reads 8. -/
theorem test_ports : portOutputs { base with exmem := ⟨0x0020A023#32, 8#32, 0x00700393#32, 8#32, false, 0#5⟩ } =
    ⟨8#32, 8#32, false, true, 0x00700393#32, false⟩ := by decide

/-- 95 V-RST: reset leaves the image in memory, little-endian, and the pc at `textBase`. -/
theorem test_reset : (match Command.run .reset base with
    | .next t => t.mem == [(0, 0xB3#8), (1, 0x81#8), (2, 0x20#8), (4, 0x33#8), (5, 0x82#8), (6, 0x01#8)] && t.pc == 0#32
    | .fault _ => false
    | .refused _ => false) = true := by decide

/-- The host's reading of the table's word: the decoder and the step agree, right after reset. -/
theorem test_table_word : decodeTableWord 32 0x002081B3 = some (.add 3#5 1#5 2#5) ∧
    (after (State.reset.withFetchWord 32 0x002081B3)).exmem.word = 0x002081B3#32 := by decide

/-! ### Witnesses: for every obligation with hypotheses, a concrete state and operands that meet them together -/

theorem inExecute_put (w a b : Word) : InExecute w (put w a b) := ⟨rfl, rfl, rfl⟩

theorem base_invariant : Invariant base where
  regions := by decide
  memWf := by decide
  memMapped := by decide
  stallOk := by unfold StallOk; decide
  control := by decide
  stalledBubble := by decide
  idexImm := by decide
  exmemDest := by unfold DestOk; decide
  memwbDest := by unfold DestOk; decide
  memwbData := by decide
  pcFollows := by decide
  haltOk := by unfold HaltOk; decide
  counters := by decide

theorem w7_invariant : Invariant w7 :=
  { base_invariant with control := by decide, stalledBubble := by decide, idexImm := by decide, pcFollows := by decide }

theorem w7Stalled_invariant : Invariant w7Stalled :=
  { base_invariant with
    stallOk := by unfold StallOk; decide
    control := by decide
    stalledBubble := by decide
    exmemDest := by unfold DestOk; decide
    pcFollows := by decide }

theorem oneAhead_invariant : Invariant oneAhead :=
  { w7Stalled_invariant with stallOk := by unfold StallOk; decide, control := by decide, stalledBubble := by decide }

theorem branchInDecode_invariant : Invariant branchInDecode := { base_invariant with pcFollows := by decide }

theorem witness_DecodeOfEncode : (Instr.jal 31#5 0x1FFFFE#21).wellFormed = true ∧ (Instr.bgeu 31#5 0#5 0x1000#13).wellFormed = true := by
  decide

theorem witness_EncodeOfDecode : decodeWord 0xFE208CE3#32 = .instr (.beq 1#5 2#5 0x1FF8#13) := by decide

theorem witness_DecodesByTableRows : decodeWord 0x41F0D193#32 = .instr (.srai 3#5 1#5 31#5) ∧
    0x41F0D193#32 &&& (rowOf (.srai 3#5 1#5 31#5)).mask = (rowOf (.srai 3#5 1#5 31#5)).value := by decide

theorem witness_UnrecognizedByOpcode : [0x00000017#32, 0x00008067#32, 0x0000000F#32, 0x00000073#32, 0x0000002F#32].map opcodeOf =
    [0b0010111#7, 0b1100111#7, 0b0001111#7, 0b1110011#7, 0b0101111#7] := by decide

theorem witness_UnsupportedByFunctions :
    (opcodeOf 0x02208033#32 = 0b0110011#7 ∧ funct7Of 0x02208033#32 ≠ 0b0000000#7) ∧
    (opcodeOf 0x40201033#32 = 0b0110011#7 ∧ funct7Of 0x40201033#32 = 0b0100000#7 ∧ funct3Of 0x40201033#32 = 0b001#3) ∧
    (opcodeOf 0x0200D093#32 = 0b0010011#7 ∧ funct3Of 0x0200D093#32 = 0b101#3 ∧ funct7Of 0x0200D093#32 = 0b0000001#7) ∧
    (opcodeOf 0x00003063#32 = 0b1100011#7 ∧ funct3Of 0x00003063#32 = 0b011#3) := by decide

theorem witness_OffsetsRoundTrip : (0x1000#13).getLsbD 0 = false ∧ (0x0FFE#13).getLsbD 0 = false ∧
    (0x100000#21).getLsbD 0 = false ∧ (0x0FFFFE#21).getLsbD 0 = false := by decide

theorem witness_ImmediatesOfEncodedWords : evenOffset 0x1000#13 = true ∧ evenOffset 0x0FFFFE#21 = true := by decide

/-- The last word of data is in range; the byte after it, and a misaligned address, are not read. -/
theorem witness_MemReadRule : (0x1002#32 : Word).toNat % 4 ≠ 0 ∧
    (∀ r ∈ base.cfg.regions, ¬ (r.first.toNat ≤ (0x2000#32 : Word).toNat ∧ (0x2000#32 : Word).toNat ≤ r.last.toNat)) ∧
    ((0x1FFC#32 : Word).toNat % 4 = 0 ∧
      ∃ r ∈ base.cfg.regions, r.first.toNat ≤ (0x1FFC#32 : Word).toNat ∧ (0x1FFC#32 : Word).toNat ≤ r.last.toNat) := by decide

theorem witness_MemWriteRule : base.mem.wf = true ∧ (0x1001#32 : Word).toNat % 4 ≠ 0 ∧
    (∀ r ∈ base.cfg.regions, ¬ (r.first.toNat ≤ (0x3000#32 : Word).toNat ∧ (0x3000#32 : Word).toNat ≤ r.last.toNat)) ∧
    ((0x0FFC#32 : Word).toNat % 4 = 0 ∧
      ∃ r ∈ base.cfg.regions, r.first.toNat ≤ (0x0FFC#32 : Word).toNat ∧ (0x0FFC#32 : Word).toNat ≤ r.last.toNat) := by decide

theorem witness_ReadAfterWrite : base.mem.wf = true := by decide

theorem witness_EqualBytesEqualMemories : base.mem.wf = true ∧ (base.mem.writeByte 3 0#8).wf = true ∧
    ∀ a, base.mem.readByte a = (base.mem.writeByte 3 0#8).readByte a :=
  ⟨by decide, by decide, fun a => by rw [show base.mem.writeByte 3 0#8 = base.mem by decide]⟩

theorem witness_StepRunsWordInExecute : (put 0x002081B3#32 1#32 2#32).halt.halted = false ∧
    decodeWord (put 0x002081B3#32 1#32 2#32).idex.word = .instr (.add 3#5 1#5 2#5) ∧
    decodeWord (put 0x0000007F#32 0#32 0#32).idex.word = .unrecognized ∧
    decodeWord (put 0x0010B193#32 0#32 0#32).idex.word = .unsupported := by decide

theorem witness_OnlyResetClearsHalt : (after (put 0x0000007F#32 0#32 0#32)).halt.halted = true ∧ Command.setHI 1#32 ≠ .reset ∧
    Command.run (.setHI 1#32) (after (put 0x0000007F#32 0#32 0#32)) = .next (setHI 1#32 (after (put 0x0000007F#32 0#32 0#32))) :=
  ⟨by decide, by decide, rfl⟩

theorem witness_HaltsExactlyOnRejectedWords : (put 0x0000007F#32 0#32 0#32).halt.halted = false ∧
    step (put 0x0000007F#32 0#32 0#32) = .next (after (put 0x0000007F#32 0#32 0#32)) := ⟨by decide, step_after _⟩

theorem witness_HaltRecord : (put 0x0000007F#32 0#32 0#32).halt.halted = false ∧
    decodeWord (put 0x0000007F#32 0#32 0#32).idex.word = .unrecognized ∧ (put 0x0010B193#32 0#32 0#32).halt.halted = false ∧
    decodeWord (put 0x0010B193#32 0#32 0#32).idex.word = .unsupported := by decide

/-- A halting word in execute with a register write in writeback and a store in the memory stage. -/
def draining : State :=
  { put 0x0000007F#32 0#32 0#32 with
    exmem := ⟨0x0020A023#32, 0x1000#32, 0x12345678#32, 0x1000#32, false, 0#5⟩
    memwb := ⟨0x002081B3#32, 12#32, 12#32, true, 3#5⟩ }

theorem witness_HaltDrain : draining.halt.halted = false ∧ (∀ i, decodeWord draining.idex.word ≠ .instr i) ∧
    isStore draining.exmem.word = true ∧ draining.memwb.regWrite = true ∧ (put 0x0000007F#32 0#32 0#32).memwb.regWrite = false := by
  refine ⟨by decide, fun i h => ?_, by decide, by decide, by decide⟩
  rw [show decodeWord draining.idex.word = .unrecognized by decide] at h
  cases h

theorem witness_RegisterArithmetic :
    InExecute (encR 0b0000000#7 0b000#3 3#5 1#5 2#5) (put 0x002081B3#32 0xFFFFFFFF#32 1#32) ∧
    InExecute (encR 0b0100000#7 0b000#3 3#5 1#5 2#5) (put 0x402081B3#32 0x80000000#32 1#32) ∧
    InExecute (encR 0b0000000#7 0b100#3 3#5 1#5 2#5) (put 0x0020C1B3#32 0xFF00FF00#32 0x0FF00FF0#32) ∧
    InExecute (encR 0b0000000#7 0b110#3 3#5 1#5 2#5) (put 0x0020E1B3#32 0xF0F0F0F0#32 0x0F0F0F0F#32) ∧
    InExecute (encR 0b0000000#7 0b111#3 3#5 1#5 2#5) (put 0x0020F1B3#32 0xF0F0F0F0#32 0xFF00FF00#32) :=
  ⟨inExecute_put _ _ _, inExecute_put _ _ _, inExecute_put _ _ _, inExecute_put _ _ _, inExecute_put _ _ _⟩

/-- Shift amounts 31, 33 and 64: the low five bits at their bounds. -/
theorem witness_RegisterShifts :
    InExecute (encR 0b0000000#7 0b001#3 3#5 1#5 2#5) (put 0x002091B3#32 1#32 31#32) ∧
    InExecute (encR 0b0000000#7 0b101#3 3#5 1#5 2#5) (put 0x0020D1B3#32 0x80000000#32 33#32) ∧
    InExecute (encR 0b0100000#7 0b101#3 3#5 1#5 2#5) (put 0x4020D1B3#32 0xFFFFFFF0#32 64#32) :=
  ⟨inExecute_put _ _ _, inExecute_put _ _ _, inExecute_put _ _ _⟩

theorem witness_RegisterComparisons :
    InExecute (encR 0b0000000#7 0b010#3 3#5 1#5 2#5) (put 0x0020A1B3#32 0x80000000#32 0x7FFFFFFF#32) ∧
    InExecute (encR 0b0000000#7 0b011#3 3#5 1#5 2#5) (put 0x0020B1B3#32 0xFFFFFFFF#32 1#32) :=
  ⟨inExecute_put _ _ _, inExecute_put _ _ _⟩

theorem witness_ImmediateArithmetic :
    InExecute (encI 0b0010011#7 0b000#3 3#5 1#5 0x800#12) (put 0x80008193#32 0#32 0#32) ∧
    InExecute (encI 0b0010011#7 0b100#3 3#5 1#5 0x7FF#12) (put 0x7FF0C193#32 0#32 0#32) ∧
    InExecute (encI 0b0010011#7 0b110#3 3#5 1#5 0x800#12) (put 0x8000E193#32 1#32 0#32) ∧
    InExecute (encI 0b0010011#7 0b111#3 3#5 1#5 0xF00#12) (put 0xF000F193#32 0x12345678#32 0#32) :=
  ⟨inExecute_put _ _ _, inExecute_put _ _ _, inExecute_put _ _ _, inExecute_put _ _ _⟩

theorem witness_ImmediateComparisonAndShifts :
    InExecute (encI 0b0010011#7 0b010#3 3#5 1#5 0xFFF#12) (put 0xFFF0A193#32 0xFFFFFFFE#32 0#32) ∧
    InExecute (encShift 0b0000000#7 0b001#3 3#5 1#5 31#5) (put 0x01F09193#32 1#32 0#32) ∧
    InExecute (encShift 0b0000000#7 0b101#3 3#5 1#5 31#5) (put 0x01F0D193#32 0x80000000#32 0#32) ∧
    InExecute (encShift 0b0100000#7 0b101#3 3#5 1#5 0#5) (put 0x4000D193#32 0x80000001#32 0#32) :=
  ⟨inExecute_put _ _ _, inExecute_put _ _ _, inExecute_put _ _ _, inExecute_put _ _ _⟩

theorem witness_LoadUpperImmediate :
    (InExecute (encU 5#5 0x12345#20) (put 0x123452B7#32 0#32 0#32) ∧ (put 0x123452B7#32 0#32 0#32).cfg.luiWritesRd = false) ∧
    (InExecute (encU 5#5 0xFFFFF#20) { put 0xFFFFF2B7#32 0#32 0#32 with cfg := { base.cfg with luiWritesRd := true } } ∧
      { put 0xFFFFF2B7#32 0#32 0#32 with cfg := { base.cfg with luiWritesRd := true } }.cfg.luiWritesRd = true) :=
  ⟨⟨inExecute_put _ _ _, rfl⟩, ⟨rfl, rfl, rfl⟩, rfl⟩

theorem witness_LoadWord : InExecute (encI 0b0000011#7 0b010#3 5#5 1#5 0xFFC#12) (put 0xFFC0A283#32 0x1008#32 0#32) :=
  inExecute_put _ _ _

/-- The last in-range word, and the first address past the region. -/
theorem witness_StoreWord :
    (InExecute (encS 1#5 2#5 4#12) (put 0x0020A223#32 0x1FF8#32 0xFF#32) ∧ (put 0x0020A223#32 0x1FF8#32 0xFF#32).mem.wf = true ∧
      accessible base.cfg (0x1FF8#32 + (4#12).signExtend 32) = true) ∧
    (InExecute (encS 1#5 2#5 0#12) (put 0x0020A023#32 0x2000#32 0xFF#32) ∧ (put 0x0020A023#32 0x2000#32 0xFF#32).mem.wf = true ∧
      accessible base.cfg (0x2000#32 + (0#12).signExtend 32) = false) :=
  ⟨⟨inExecute_put _ _ _, by decide, by decide⟩, inExecute_put _ _ _, by decide, by decide⟩

/-- SW to 0x1000 in the memory stage, LW from 0x1000 in execute. -/
def storeThenLoad : State :=
  { put 0x0000A283#32 0x1000#32 0#32 with exmem := ⟨0x0020A023#32, 0x1000#32, 0x12345678#32, 0x1000#32, false, 0#5⟩ }

theorem witness_LoadAfterStore : InExecute (encI 0b0000011#7 0b010#3 5#5 1#5 0#12) storeThenLoad ∧ storeThenLoad.mem.wf = true ∧
    isStore storeThenLoad.exmem.word = true ∧ storeThenLoad.exmem.aluOut = storeThenLoad.idex.opA + (0#12).signExtend 32 ∧
    accessible storeThenLoad.cfg storeThenLoad.exmem.aluOut = true :=
  ⟨⟨rfl, rfl, rfl⟩, by decide, by decide, by decide, by decide⟩

theorem witness_EqualityBranches : evenOffset 0x1000#13 = true ∧
    InExecute (encB 0b000#3 1#5 2#5 0x1000#13) (put 0x80208063#32 5#32 5#32) ∧ evenOffset 0x1FF8#13 = true ∧
    InExecute (encB 0b001#3 1#5 2#5 0x1FF8#13) (put 0xFE209CE3#32 5#32 6#32) :=
  ⟨by decide, inExecute_put _ _ _, by decide, inExecute_put _ _ _⟩

theorem witness_OrderedBranches : evenOffset 8#13 = true ∧
    InExecute (encB 0b100#3 1#5 2#5 8#13) (put 0x0020C463#32 0x80000000#32 0x7FFFFFFF#32) ∧
    InExecute (encB 0b101#3 1#5 2#5 8#13) (put 0x0020D463#32 5#32 5#32) ∧
    InExecute (encB 0b110#3 1#5 2#5 8#13) (put 0x0020E463#32 1#32 0xFFFFFFFF#32) ∧
    InExecute (encB 0b111#3 1#5 2#5 8#13) (put 0x0020F463#32 5#32 5#32) :=
  ⟨by decide, inExecute_put _ _ _, inExecute_put _ _ _, inExecute_put _ _ _, inExecute_put _ _ _⟩

theorem witness_JumpAndLink : evenOffset 0x100000#21 = true ∧ InExecute (encJ 1#5 0x100000#21) (put 0x800000EF#32 0#32 0#32) :=
  ⟨by decide, inExecute_put _ _ _⟩

theorem witness_BranchShadowIsDiscarded : Invariant branchInDecode ∧ branchInDecode.halt.halted = false ∧
    step branchInDecode = .next (after branchInDecode) ∧ (after branchInDecode).halt.halted = false ∧
    (∃ i, decodeWord (after branchInDecode).idex.word = .instr i) ∧ isControl (after branchInDecode).idex.word = true :=
  ⟨branchInDecode_invariant, by decide, step_after _, by decide, ⟨.beq 1#5 2#5 8#13, by decide⟩, by decide⟩

theorem witness_NopInExecute : InExecute 0#32 (put 0#32 0#32 0#32) := inExecute_put _ _ _

theorem witness_NopInDecode : (put 0x002081B3#32 1#32 2#32).halt.halted = false ∧ DecodesNormally (put 0x002081B3#32 1#32 2#32) ∧
    (put 0x002081B3#32 1#32 2#32).ifid.word = 0#32 ∧
    step (put 0x002081B3#32 1#32 2#32) = .next (after (put 0x002081B3#32 1#32 2#32)) :=
  ⟨by decide, by unfold DecodesNormally; decide, by decide, step_after _⟩

/-- A write of `x0` in writeback. -/
def writesX0 : State := { base with memwb := ⟨0x00208033#32, 12#32, 12#32, true, 0#5⟩ }

theorem witness_RegisterZeroWritten : writesX0.halt.halted = false ∧ step writesX0 = .next (after writesX0) ∧
    writesX0.cfg.x0HardwiredZero = false ∧ writesX0.memwb.regWrite = true ∧ writesX0.memwb.rd = 0#5 ∧
    { base.cfg with x0HardwiredZero := true }.x0HardwiredZero = true :=
  ⟨by decide, step_after _, by decide, by decide, by decide, by decide⟩

theorem witness_StallRelease :
    (w7Stalled.stall.mode = .stalled ∧ w7Stalled.stall.remaining = 2 ∧ MEMWB.zero.regWrite = false) ∧
    ((after w7Stalled).stall.mode = .stalled ∧ (after w7Stalled).stall.remaining = 1) ∧
    ((after w7Stalled).memwb.regWrite = true ∧ (after w7Stalled).memwb.rd = w7Stalled.stall.prodRd ∧
      opcodeOf (after w7Stalled).memwb.word = w7Stalled.stall.prodOpcode) ∧ base.stall.mode ≠ .stalled := by decide

theorem witness_StalledCycleHolds : Invariant w7Stalled ∧ w7Stalled.halt.halted = false ∧
    (releaseStall w7Stalled.stall w7Stalled.memwb).mode = .stalled := ⟨w7Stalled_invariant, by decide, by decide⟩

theorem witness_ReleasedStallDecodesNormally : (after w7Stalled).stall.mode = .stalled ∧ DecodesNormally (after w7Stalled) ∧
    (after w7Stalled).halt.halted = false := ⟨by decide, by unfold DecodesNormally; decide, by decide⟩

/-- BEQ in execute, and an unsupported BRANCH word there (95 V-DEC-19), which is no instruction. -/
theorem witness_BranchBubbleCycle : (put 0x00208463#32 5#32 5#32).halt.halted = false ∧
    (put 0x00208463#32 5#32 5#32).stall.mode = .branchBubble ∧ (put 0x00002063#32 0#32 0#32).halt.halted = false ∧
    (put 0x00002063#32 0#32 0#32).stall.mode = .branchBubble ∧ isControl (put 0x00002063#32 0#32 0#32).idex.word = true ∧
    ∀ i, decodeWord (put 0x00002063#32 0#32 0#32).idex.word = .instr i → isControl (put 0x00002063#32 0#32 0#32).idex.word = false := by
  refine ⟨by decide, by decide, by decide, by decide, by decide, fun i h => ?_⟩
  rw [show decodeWord (put 0x00002063#32 0#32 0#32).idex.word = .unsupported by decide] at h
  cases h

theorem witness_HazardEntersStall :
    (w7.halt.halted = false ∧ step w7 = .next (after w7) ∧ w7.stall.forwarding = false ∧ DecodesNormally w7 ∧ w7.ifid.word ≠ 0#32 ∧
      ∃ r, Reads w7.ifid.word r ∧ (after w7).exmem.Writes r) ∧
    (oneAhead.halt.halted = false ∧ step oneAhead = .next (after oneAhead) ∧ oneAhead.stall.forwarding = false ∧
      DecodesNormally oneAhead ∧ oneAhead.ifid.word ≠ 0#32 ∧
      (∀ r, Reads oneAhead.ifid.word r → ¬ (after oneAhead).exmem.Writes r) ∧
      ∃ r, Reads oneAhead.ifid.word r ∧ (after oneAhead).memwb.Writes r) := by
  refine ⟨⟨by decide, step_after _, by decide, by unfold DecodesNormally; decide, by decide, 3#5, ?_, ?_⟩,
    by decide, step_after _, by decide, by unfold DecodesNormally; decide, by decide, fun r _ h => ?_, 3#5, ?_, ?_⟩
  · unfold Reads; decide
  · unfold EXMEM.Writes; decide
  · exact absurd h.1 (by decide)
  · unfold Reads; decide
  · unfold MEMWB.Writes; decide

/-- A word in decode that no latch ahead of it feeds. -/
def noHazard : State := { base with ifid := ⟨0x002081B3#32, 4#32⟩ }

theorem witness_PassesWithoutForwarding : noHazard.halt.halted = false ∧ step noHazard = .next (after noHazard) ∧
    noHazard.stall.forwarding = false ∧ DecodesNormally noHazard ∧ noHazard.ifid.word ≠ 0#32 ∧
    ∀ r, Reads noHazard.ifid.word r → ¬ (after noHazard).exmem.Writes r ∧ ¬ (after noHazard).memwb.Writes r :=
  ⟨by decide, step_after _, by decide, by unfold DecodesNormally; decide, by decide,
    fun _ _ => ⟨fun h => absurd h.1 (by decide), fun h => absurd h.1 (by decide)⟩⟩

theorem witness_PassesWithForwarding : (toggleForwarding w7).halt.halted = false ∧
    step (toggleForwarding w7) = .next (after (toggleForwarding w7)) ∧ (toggleForwarding w7).stall.forwarding = true ∧
    DecodesNormally (toggleForwarding w7) ∧ (toggleForwarding w7).ifid.word ≠ 0#32 ∧
    (after (toggleForwarding w7)).exmem.Writes 3#5 ∧
    (¬ (after (toggleForwarding oneAhead)).exmem.Writes 3#5 ∧ (after (toggleForwarding oneAhead)).memwb.Writes 3#5) ∧
    (¬ (after (toggleForwarding noHazard)).exmem.Writes 1#5 ∧ ¬ (after (toggleForwarding noHazard)).memwb.Writes 1#5) := by
  unfold DecodesNormally EXMEM.Writes MEMWB.Writes
  exact ⟨by decide, step_after _, by decide⟩

theorem witness_PassedOperandsAreCurrent : noHazard.halt.halted = false ∧ step noHazard = .next (after noHazard) ∧
    noHazard.stall.forwarding = false ∧ (after noHazard).idex.word ≠ 0#32 ∧ Reads (after noHazard).idex.word 2#5 := by
  unfold Reads
  exact ⟨by decide, step_after _, by decide⟩

/-- `lw x5, 0(x1)` in execute, `add x6, x5, x5` in decode, forwarding on. -/
def loadUse : State :=
  { put 0x0000A283#32 0x1000#32 0#32 with ifid := ⟨0x00528333#32, 4#32⟩, stall := { base.stall with forwarding := true } }

theorem witness_LoadUseReceivesAddress : InExecute (encI 0b0000011#7 0b010#3 5#5 1#5 0#12) loadUse ∧
    loadUse.stall.forwarding = true ∧ DecodesNormally loadUse ∧ loadUse.ifid.word ≠ 0#32 ∧ (5#5 : RegIdx) ≠ 0#5 ∧
    rs1Of loadUse.ifid.word = 5#5 ∧ rs2Of loadUse.ifid.word = 5#5 := by
  unfold DecodesNormally
  exact ⟨⟨rfl, rfl, rfl⟩, by decide⟩

theorem witness_StallLengths :
    (Invariant w7 ∧ w7.halt.halted = false ∧ step w7 = .next (after w7) ∧ w7.stall.forwarding = false ∧ DecodesNormally w7 ∧
      w7.ifid.word ≠ 0#32 ∧ (after w7).halt.halted = false ∧ (after w7).ifid.word = w7.ifid.word ∧
      (∃ r, Reads w7.ifid.word r ∧ (after w7).exmem.Writes r) ∧ (after (after w7)).ifid.word = w7.ifid.word) ∧
    (Invariant oneAhead ∧ oneAhead.halt.halted = false ∧ step oneAhead = .next (after oneAhead) ∧
      oneAhead.stall.forwarding = false ∧ DecodesNormally oneAhead ∧ oneAhead.ifid.word ≠ 0#32 ∧
      (after oneAhead).halt.halted = false ∧ (after oneAhead).ifid.word = oneAhead.ifid.word ∧
      (∀ r, Reads oneAhead.ifid.word r → ¬ (after oneAhead).exmem.Writes r) ∧
      ∃ r, Reads oneAhead.ifid.word r ∧ (after oneAhead).memwb.Writes r) := by
  obtain ⟨⟨a1, a2, a3, a4, a5, a6⟩, b1, b2, b3, b4, b5, b6, b7⟩ := witness_HazardEntersStall
  exact ⟨⟨w7_invariant, a1, a2, a3, a4, a5, by decide, by decide, a6, by decide⟩,
    oneAhead_invariant, b1, b2, b3, b4, b5, by decide, by decide, b6, b7⟩

theorem witness_SequentialFetch : w7.halt.halted = false ∧ step w7 = .next (after w7) ∧
    ∀ i, decodeWord w7.idex.word = .instr i → isControl w7.idex.word = false := ⟨by decide, step_after _, fun _ _ => by decide⟩

/-- The fetch of 0x00018233 at address 4, with an ADD in decode that reads no pending register. -/
def refetch : State := { noHazard with pc := 4#32, ifid := ⟨0x00408233#32, 0#32⟩ }

theorem witness_FetchedWordReachesExecute : refetch.halt.halted = false ∧ step refetch = .next (after refetch) ∧
    (after refetch).halt.halted = false ∧ step (after refetch) = .next (after (after refetch)) ∧
    (after (after refetch)).halt.halted = false ∧ DecodesNormally (after refetch) ∧ (after refetch).ifid.word = 0x00018233#32 ∧
    ∀ r, Reads (after refetch).ifid.word r → ¬ (after (after refetch)).exmem.Writes r ∧ ¬ (after (after refetch)).memwb.Writes r := by
  refine ⟨by decide, step_after _, by decide, step_after _, by decide, by unfold DecodesNormally; decide, by decide, fun r h => ?_⟩
  have h3 : rs1Of (after refetch).ifid.word = 3#5 ∧ rs2Of (after refetch).ifid.word = 0#5 := by decide
  unfold Reads at h
  rw [h3.1, h3.2] at h
  unfold EXMEM.Writes MEMWB.Writes
  rcases h with rfl | rfl <;> decide

/-- The pc misaligned, and just past data. -/
theorem witness_FetchOutsideMemoryIsNop : base.halt.halted = false ∧ step base = .next (after base) ∧
    (after { base with pc := 0x102#32 }).ifid.pc.toNat % 4 ≠ 0 ∧
    ∀ r ∈ base.cfg.regions, ¬ (r.first.toNat ≤ (after { base with pc := 0x2000#32 }).ifid.pc.toNat ∧
      (after { base with pc := 0x2000#32 }).ifid.pc.toNat ≤ r.last.toNat) :=
  ⟨by decide, step_after _, by decide, by decide⟩

/-- SW to the fetch address in the memory stage (95 V-SMC). -/
def storeToFetch : State := { base with exmem := ⟨0x0020A023#32, 8#32, 0x00700393#32, 8#32, false, 0#5⟩ }

theorem witness_FetchSeesStoreOfSameCycle : storeToFetch.mem.wf = true ∧ storeToFetch.halt.halted = false ∧
    step storeToFetch = .next (after storeToFetch) ∧ isStore storeToFetch.exmem.word = true ∧
    accessible storeToFetch.cfg storeToFetch.exmem.aluOut = true ∧ (after storeToFetch).ifid.pc = storeToFetch.exmem.aluOut :=
  ⟨by decide, by decide, step_after _, by decide, by decide, by decide⟩

/-- A text region of two words, with an image of `ws`. -/
def twoWordCfg (ws : List Word) : Config := { Config.example with regions := [⟨"text", 0#32, 7#32⟩], image := some ws }

/-- The state after power-on under a configuration, or `base` where it is refused. -/
def poweredOn (cfg : Config) : State :=
  match powerOn cfg with
  | .next t => t
  | .fault _ => base
  | .refused _ => base

theorem witness_ResetLeaves : base.cfg.image = some [0x002081B3#32, 0x00018233#32] ∧ ∃ t, Command.run .reset base = .next t :=
  ⟨rfl, _, rfl⟩

/-- An image that fills its region exactly, and one word more; overlapping regions; no image; a misaligned `textBase`; an image of
no words. -/
theorem witness_ResetRunsOrIsRefused :
    regionsWf [⟨"text", 0#32, 7#32⟩, ⟨"data", 4#32, 11#32⟩] = false ∧
    (regionsWf Config.example.regions = true ∧ Config.example.image = none) ∧
    (regionsWf (twoWordCfg [1#32, 2#32]).regions = true ∧ imageFits (twoWordCfg [1#32, 2#32]) [1#32, 2#32] = true) ∧
    (regionsWf (twoWordCfg [1#32, 2#32, 3#32]).regions = true ∧ imageFits (twoWordCfg [1#32, 2#32, 3#32]) [1#32, 2#32, 3#32] = false) ∧
    imageFits { twoWordCfg [1#32] with textBase := 2#32 } [1#32] = false ∧
    (regionsWf (twoWordCfg []).regions = true ∧ imageFits (twoWordCfg []) [] = true) := by decide

theorem witness_PowerOnIsResetState : powerOn (twoWordCfg [1#32, 2#32]) = .next (poweredOn (twoWordCfg [1#32, 2#32])) := rfl

theorem witness_StepCommand : (after (put 0x0000007F#32 0#32 0#32)).halt.halted = true ∧ base.halt.halted = false := by decide

/-- `base` with a sentinel at the pc the next cycle leaves, and at another. -/
def withEnd (e : Word) : State := { base with cfg := { base.cfg with endPC := some e } }

/-- A halting word in execute, with a sentinel configured. -/
def haltsItself : State := { put 0x0000007F#32 0#32 0#32 with cfg := { base.cfg with endPC := some 12#32 } }

theorem witness_RunToCompletion : (∃ t, Command.run (.runToCompletion 1) (withEnd 12#32) = .next t) ∧
    base.cfg.endPC = none ∧ (withEnd 12#32).cfg.endPC = some 12#32 ∧ (after haltsItself).cfg.endPC = some 12#32 ∧
    (after haltsItself).halt.halted = true ∧ (withEnd 12#32).halt.halted = false ∧
    (haltsItself.cfg.endPC = some 12#32 ∧ haltsItself.halt.halted = false ∧ step haltsItself = .next (after haltsItself) ∧
      (after haltsItself).halt.halted = true ∧ (after haltsItself).pc = 12#32) ∧
    (step (withEnd 12#32) = .next (after (withEnd 12#32)) ∧ (after (withEnd 12#32)).halt.halted = false ∧
      (after (withEnd 12#32)).pc = 12#32) ∧
    ((withEnd 16#32).cfg.endPC = some 16#32 ∧ (withEnd 16#32).halt.halted = false ∧
      step (withEnd 16#32) = .next (after (withEnd 16#32)) ∧ (after (withEnd 16#32)).halt.halted = false ∧
      (after (withEnd 16#32)).pc ≠ 16#32) :=
  ⟨⟨_, rfl⟩, by decide, by decide, by decide, by decide, by decide, ⟨by decide, by decide, step_after _, by decide, by decide⟩,
    ⟨step_after _, by decide, by decide⟩, by decide, by decide, step_after _, by decide, by decide⟩

/-- The stall of W7 as show latches gives it, under both readings of the parameter (10 R52, 60 R529). -/
theorem test_show_latches : (showLatches w7Stalled).record = some ⟨2, 0b0110011#7, 3#5⟩ ∧ (showLatches w7Stalled).mode = .stalled ∧
    (showLatches { w7Stalled with cfg := { w7Stalled.cfg with stallRecordShown := false } }).record = none := by decide

/-- A halting cycle as the host reads it (10 R52): the flag, the reason, the halting word, and both counters one further. -/
theorem test_read_control : readControl (after (put 0x0000007F#32 0#32 0#32)) =
    ⟨.normal, false, true, .unrecognizedOpcode, (put 0x0000007F#32 0#32 0#32).idex.pc, 0x0000007F#32, base.cycleCount + 1,
      base.instretCount + 1⟩ := by decide

theorem witness_ViewingCommands : base.cfg.stallRecordShown = true ∧
    { base with cfg := { base.cfg with stallRecordShown := false } }.cfg.stallRecordShown = false := by decide

theorem witness_WritingCommands : w7Stalled.halt.halted = false ∧
    (releaseStall w7Stalled.stall w7Stalled.memwb).mode = .stalled := by decide

/-- The last byte of data, and the one after it. -/
theorem witness_DumpCommands : (∃ r ∈ base.cfg.regions, r.first.toNat ≤ 0x1FFF + 0 ∧ 0x1FFF + 0 ≤ r.last.toNat) ∧
    ∀ r ∈ base.cfg.regions, ¬ (r.first.toNat ≤ 0x1FFF + 1 ∧ 0x1FFF + 1 ≤ r.last.toNat) := by decide

theorem witness_StepKeepsInvariant : Invariant w7 ∧ step w7 = .next (after w7) := ⟨w7_invariant, step_after _⟩

theorem witness_CommandsKeepInvariant : Invariant w7 ∧ Command.run (.setHI 1#32) w7 = .next (setHI 1#32 w7) ∧
    powerOn (twoWordCfg [1#32, 2#32]) = .next (poweredOn (twoWordCfg [1#32, 2#32])) := ⟨w7_invariant, rfl, rfl⟩

end Sys2Proof.Tests
end

section
/-! The memory rules: when a word access reaches memory, said by the regions (20 R82, R84, R85), what `memRead` and `memWrite`
do in and out of that case, and the obligations O9 and O10. -/

namespace Sys2Proof.Machine

/-- The linear lookup finds a region exactly when some region of the list holds the address (20 R82). -/
theorem regionOf_isSome_iff (cfg : Config) (a : Nat) :
    (regionOf cfg a).isSome = true ↔ ∃ r ∈ cfg.regions, r.first.toNat ≤ a ∧ a ≤ r.last.toNat := by
  simp only [regionOf, List.find?_isSome, regionHolds, decide_eq_true_eq]

theorem accessible_iff (cfg : Config) (a : Word) :
    accessible cfg a = true ↔
      a.toNat % 4 = 0 ∧ ∃ r ∈ cfg.regions, r.first.toNat ≤ a.toNat ∧ a.toNat ≤ r.last.toNat := by
  simp only [accessible, Bool.and_eq_true, decide_eq_true_eq, regionOf_isSome_iff]

theorem not_accessible_of_misaligned (cfg : Config) {a : Word} (h : a.toNat % 4 ≠ 0) : ¬ accessible cfg a = true :=
  fun hacc => h ((accessible_iff cfg a).1 hacc).1

theorem not_accessible_of_outOfRange {cfg : Config} {a : Word}
    (h : ∀ r ∈ cfg.regions, ¬ (r.first.toNat ≤ a.toNat ∧ a.toNat ≤ r.last.toNat)) : ¬ accessible cfg a = true := by
  intro hacc
  obtain ⟨-, r, hr, hin⟩ := (accessible_iff cfg a).1 hacc
  exact h r hr hin

theorem memRead_of_accessible {cfg : Config} {a : Word} (m : Memory) (h : accessible cfg a = true) :
    memRead cfg m a = m.wordAt a.toNat := if_pos h

theorem memRead_of_not_accessible {cfg : Config} {a : Word} (m : Memory) (h : ¬ accessible cfg a = true) :
    memRead cfg m a = 0#32 := if_neg h

theorem memWrite_of_accessible {cfg : Config} {a : Word} (m : Memory) (v : Word) (h : accessible cfg a = true) :
    memWrite cfg m a v = m.putWord a.toNat v := if_pos h

theorem memWrite_of_not_accessible {cfg : Config} {a : Word} (m : Memory) (v : Word) (h : ¬ accessible cfg a = true) :
    memWrite cfg m a v = m := if_neg h

/-- A write that reaches memory leaves the four bytes of the value (20 R85). -/
theorem readByte_memWrite {cfg : Config} {m : Memory} {a : Word} (v : Word) {k : Nat} (hm : m.wf = true)
    (h : accessible cfg a = true) (hk : k < 4) : (memWrite cfg m a v).readByte (a.toNat + k) = byteOf v k := by
  rw [memWrite_of_accessible m v h]
  exact Memory.readByte_putWord m a.toNat k v hk hm

/-- The frame of `MemWrite` (20 R85), whether or not the write reaches memory. -/
theorem readByte_memWrite_other (cfg : Config) (m : Memory) (a v : Word) {b : Nat}
    (hb : b < a.toNat ∨ a.toNat + 4 ≤ b) : (memWrite cfg m a v).readByte b = m.readByte b := by
  by_cases h : accessible cfg a = true
  · rw [memWrite_of_accessible m v h]
    exact Memory.readByte_putWord_other m a.toNat b v hb
  · rw [memWrite_of_not_accessible m v h]

/-- Settles O9: the two zero cases are the accesses that do not reach memory, the third is `Memory.wordAt`. -/
theorem memReadRule : Obligations.MemReadRule := by
  intro cfg m a
  refine ⟨fun hmis => ?_, fun hout => ?_, fun hal hin => ?_⟩
  · exact memRead_of_not_accessible m (not_accessible_of_misaligned cfg hmis)
  · exact memRead_of_not_accessible m (not_accessible_of_outOfRange hout)
  · rw [memRead_of_accessible m ((accessible_iff cfg a).2 ⟨hal, hin⟩)]
    rfl

/-- Settles O10: the four stored bytes by `readByte_memWrite`, which needs the canonical form, and the frame by
`readByte_memWrite_other`, which does not. -/
theorem memWriteRule : Obligations.MemWriteRule := by
  intro cfg m a v hm
  refine ⟨fun hmis => ?_, fun hout => ?_, fun hal hin => ?_, fun b hb => ?_⟩
  · exact memWrite_of_not_accessible m v (not_accessible_of_misaligned cfg hmis)
  · exact memWrite_of_not_accessible m v (not_accessible_of_outOfRange hout)
  · have hacc : accessible cfg a = true := (accessible_iff cfg a).2 ⟨hal, hin⟩
    exact ⟨readByte_memWrite v (k := 0) hm hacc (by decide), readByte_memWrite v (k := 1) hm hacc (by decide),
      readByte_memWrite v (k := 2) hm hacc (by decide), readByte_memWrite v (k := 3) hm hacc (by decide)⟩
  · exact readByte_memWrite_other cfg m a v hb

end Sys2Proof.Machine
end

section
/-! The branch and jump offsets in the instruction word (30 R140): the offset field of an encoded word is the offset with bit 0
cleared, which is the offset itself when it is even; and the obligation O7. -/

namespace Sys2Proof.Machine

/-- Clearing bit 0 of an even offset leaves it as it is. -/
theorem extract_append_zero_of_even {n : Nat} {o : BitVec (n + 1)} (h : o.getLsbD 0 = false) :
    o.extractLsb' 1 n ++ 0#1 = o := by
  have hbit : o.extractLsb' 0 1 = 0#1 := by
    apply BitVec.eq_of_getLsbD_eq
    intro i hi
    obtain rfl : i = 0 := by omega
    simpa using h
  rw [← hbit, BitVec.extractLsb'_append_extractLsb']

/-- The B-type field reads back bits 12:1, whatever the offset; bit 0 has no place in the word (30 R126). -/
@[simp] theorem offBOf_encB (f3 : BitVec 3) (rs1 rs2 : RegIdx) (o : BitVec 13) :
    offBOf (encB f3 rs1 rs2 o) = o.extractLsb' 1 12 ++ 0#1 := by
  have hfields : offBOf (encB f3 rs1 rs2 o) =
      o.extractLsb' 12 1 ++ o.extractLsb' 11 1 ++ o.extractLsb' 5 6 ++ o.extractLsb' 1 4 ++ 0#1 := by
    simp (disch := decide) only [offBOf, encB, extract_append_high, extract_append_low, Nat.reduceSub, extract_self]
  rw [hfields, BitVec.extractLsb'_append_extractLsb'_eq_extractLsb', BitVec.extractLsb'_append_extractLsb'_eq_extractLsb',
    BitVec.extractLsb'_append_extractLsb'_eq_extractLsb'] <;> rfl

/-- The J-type field reads back bits 20:1, whatever the offset; bit 0 has no place in the word (30 R127). -/
@[simp] theorem offJOf_encJ (rd : RegIdx) (o : BitVec 21) : offJOf (encJ rd o) = o.extractLsb' 1 20 ++ 0#1 := by
  have hfields : offJOf (encJ rd o) =
      o.extractLsb' 20 1 ++ o.extractLsb' 12 8 ++ o.extractLsb' 11 1 ++ o.extractLsb' 1 10 ++ 0#1 := by
    simp (disch := decide) only [offJOf, encJ, extract_append_high, extract_append_low, Nat.reduceSub, extract_self]
  rw [hfields, BitVec.extractLsb'_append_extractLsb'_eq_extractLsb', BitVec.extractLsb'_append_extractLsb'_eq_extractLsb',
    BitVec.extractLsb'_append_extractLsb'_eq_extractLsb'] <;> rfl

/-- Settles O7: the field holds every offset bit but bit 0, which is 0 in an even offset. -/
theorem offsetsRoundTrip : Obligations.OffsetsRoundTrip := by
  refine ⟨fun f3 rs1 rs2 o heven => ?_, fun rd o heven => ?_⟩
  · rw [offBOf_encB, extract_append_zero_of_even heven]
  · rw [offJOf_encJ, extract_append_zero_of_even heven]

end Sys2Proof.Machine
end

section
/-! The dump commands (60 R523, R525): which byte of memory and which register stands at each position of what they return, and
the obligation O56. -/

namespace Sys2Proof.Machine

theorem dumpByte_of_inRange {s : State} {a : Nat} (h : ∃ r ∈ s.cfg.regions, r.first.toNat ≤ a ∧ a ≤ r.last.toNat) :
    dumpByte s a = s.mem.readByte a := if_pos ((regionOf_isSome_iff s.cfg a).2 h)

theorem dumpByte_of_outOfRange {s : State} {a : Nat}
    (h : ∀ r ∈ s.cfg.regions, ¬ (r.first.toNat ≤ a ∧ a ≤ r.last.toNat)) : dumpByte s a = 0#8 := by
  refine if_neg fun hsome => ?_
  obtain ⟨r, hr, hin⟩ := (regionOf_isSome_iff s.cfg a).1 hsome
  exact h r hr hin

@[simp] theorem length_dumpMemory (s : State) (a n : Nat) : (dumpMemory s a n).length = n := by
  simp only [dumpMemory, List.length_map, List.length_range]

theorem getElem?_dumpMemory (s : State) (a : Nat) {n k : Nat} (hk : k < n) :
    (dumpMemory s a n)[k]? = some (dumpByte s (a + k)) := by
  simp only [dumpMemory, List.getElem?_map, List.getElem?_range hk, Option.map_some]

@[simp] theorem length_dumpRegisters_x (s : State) : (dumpRegisters s).x.length = 32 := by
  simp only [dumpRegisters, List.length_map, List.length_range]

/-- Register `r` stands at its own index, as an instruction would read it. -/
theorem getElem?_dumpRegisters_x (s : State) (r : RegIdx) : (dumpRegisters s).x[r.toNat]? = some (s.reg r) := by
  have hr : r.toNat < 32 := r.isLt
  simp only [dumpRegisters, State.reg, List.getElem?_map, List.getElem?_range hr, Option.map_some, BitVec.ofNat_toNat,
    BitVec.setWidth_eq]

/-- Settles O56: position `k` of a memory dump is `dumpByte` at `a + k`, whose two cases are the two cases of the statement. -/
theorem dumpCommands : Obligations.DumpCommands := by
  intro s a n
  refine ⟨rfl, ⟨dumpMemory s a n, rfl, length_dumpMemory s a n, fun k hk => ⟨fun hin => ?_, fun hout => ?_⟩⟩, rfl,
    dumpRegisters s, rfl, length_dumpRegisters_x s, getElem?_dumpRegisters_x s, rfl, rfl, rfl⟩
  · rw [getElem?_dumpMemory s a hk, dumpByte_of_inRange hin]
  · rw [getElem?_dumpMemory s a hk, dumpByte_of_outOfRange hout]

end Sys2Proof.Machine
end

section
/-! The classifier, one opcode at a time (30 R131 to R136), what each of the formats' encoders leaves in the fields and what
the fields give back (30 R121 to R130), and the encoding obligations O1 to O6 and O8. -/

namespace Sys2Proof

/-! ### The classifier by opcode -/

theorem ne_zero_of_opcode {w : Word} {o : Opcode} (ho : opcodeOf w = o) (hne : o ≠ 0#7) : w ≠ 0#32 := by
  rintro rfl
  exact hne ho.symm

section
variable {w : Word}

theorem decodeWord_of_op (ho : opcodeOf w = opOP) : decodeWord w = decodeOp w := by
  rw [decodeWord, if_neg (ne_zero_of_opcode ho (by decide)), if_pos ho]

theorem decodeWord_of_opImm (ho : opcodeOf w = opOPIMM) : decodeWord w = decodeOpImm w := by
  rw [decodeWord, if_neg (ne_zero_of_opcode ho (by decide)), ho, if_neg (by decide), if_pos rfl]

theorem decodeWord_of_load (ho : opcodeOf w = opLOAD) :
    decodeWord w = if funct3Of w = 0b010#3 then .instr (.lw (rdOf w) (rs1Of w) (immIOf w)) else .unsupported := by
  rw [decodeWord, if_neg (ne_zero_of_opcode ho (by decide)), ho, if_neg (by decide), if_neg (by decide), if_pos rfl]

theorem decodeWord_of_store (ho : opcodeOf w = opSTORE) :
    decodeWord w = if funct3Of w = 0b010#3 then .instr (.sw (rs1Of w) (rs2Of w) (immSOf w)) else .unsupported := by
  rw [decodeWord, if_neg (ne_zero_of_opcode ho (by decide)), ho, if_neg (by decide), if_neg (by decide),
    if_neg (by decide), if_pos rfl]

theorem decodeWord_of_branch (ho : opcodeOf w = opBRANCH) : decodeWord w = decodeBranch w := by
  rw [decodeWord, if_neg (ne_zero_of_opcode ho (by decide)), ho, if_neg (by decide), if_neg (by decide),
    if_neg (by decide), if_neg (by decide), if_pos rfl]

theorem decodeWord_of_jal (ho : opcodeOf w = opJAL) : decodeWord w = .instr (.jal (rdOf w) (offJOf w)) := by
  rw [decodeWord, if_neg (ne_zero_of_opcode ho (by decide)), ho, if_neg (by decide), if_neg (by decide),
    if_neg (by decide), if_neg (by decide), if_neg (by decide), if_pos rfl]

theorem decodeWord_of_lui (ho : opcodeOf w = opLUI) : decodeWord w = .instr (.lui (rdOf w) (immUOf w)) := by
  rw [decodeWord, if_neg (ne_zero_of_opcode ho (by decide)), ho, if_neg (by decide), if_neg (by decide),
    if_neg (by decide), if_neg (by decide), if_neg (by decide), if_neg (by decide), if_pos rfl]

end

/-! ### The immediate by opcode (30 R122) -/

section
variable {w : Word}

theorem immOf_of_op (ho : opcodeOf w = opOP) : immOf w = 0#32 := by
  rw [immOf, ho, if_neg (by decide), if_neg (by decide), if_neg (by decide), if_neg (by decide), if_neg (by decide)]

theorem immOf_of_opImm (ho : opcodeOf w = opOPIMM) : immOf w = (immIOf w).signExtend 32 := by
  rw [immOf, if_pos (.inl ho)]

theorem immOf_of_load (ho : opcodeOf w = opLOAD) : immOf w = (immIOf w).signExtend 32 := by
  rw [immOf, if_pos (.inr ho)]

theorem immOf_of_store (ho : opcodeOf w = opSTORE) : immOf w = (immSOf w).signExtend 32 := by
  rw [immOf, ho, if_neg (by decide), if_pos rfl]

theorem immOf_of_branch (ho : opcodeOf w = opBRANCH) : immOf w = (offBOf w).signExtend 32 := by
  rw [immOf, ho, if_neg (by decide), if_neg (by decide), if_pos rfl]

theorem immOf_of_jal (ho : opcodeOf w = opJAL) : immOf w = (offJOf w).signExtend 32 := by
  rw [immOf, ho, if_neg (by decide), if_neg (by decide), if_neg (by decide), if_pos rfl]

theorem immOf_of_lui (ho : opcodeOf w = opLUI) : immOf w = upperImm (immUOf w) := by
  rw [immOf, ho, if_neg (by decide), if_neg (by decide), if_neg (by decide), if_neg (by decide), if_pos rfl]

end

/-! ### Fields of the encoders, beside those of Laws/Decode -/

@[simp] theorem immSOf_encS (rs1 rs2 : RegIdx) (imm : BitVec 12) : immSOf (encS rs1 rs2 imm) = imm := by
  have hfields : immSOf (encS rs1 rs2 imm) = imm.extractLsb' 5 7 ++ imm.extractLsb' 0 5 := by
    simp (disch := decide) only [immSOf, encS, extract_append_high, extract_append_low, Nat.reduceSub, extract_self]
  rw [hfields, BitVec.extractLsb'_append_extractLsb'_eq_extractLsb' (by decide), extract_self]

/-- An immediate shift's word is an I word whose immediate holds the selector bits above the amount (30 R130). -/
theorem encShift_eq_encI (f7 : BitVec 7) (f3 : BitVec 3) (rd rs1 : RegIdx) (shamt : BitVec 5) :
    encShift f7 f3 rd rs1 shamt = encI opOPIMM f3 rd rs1 (f7 ++ shamt) := by
  simp only [encShift, encI]

theorem offBOf_encB_of_even (f3 : BitVec 3) (rs1 rs2 : RegIdx) {off : BitVec 13} (h : evenOffset off = true) :
    offBOf (encB f3 rs1 rs2 off) = off :=
  Machine.offsetsRoundTrip.1 f3 rs1 rs2 off (by simpa [evenOffset] using h)

theorem offJOf_encJ_of_even (rd : RegIdx) {off : BitVec 21} (h : evenOffset off = true) : offJOf (encJ rd off) = off :=
  Machine.offsetsRoundTrip.2 rd off (by simpa [evenOffset] using h)

/-! ### Decoding what was encoded (30 R123) -/

/-- Settles O1: the word of each instruction has the opcode of its format, so the classifier takes that opcode's branch, and the
fields of the encoder pick the instruction there. -/
theorem decodeOfEncode : Obligations.DecodeOfEncode := by
  intro i hwf
  cases i
  case add | sub | sll | slt | sltu | xor | srl | sra | or | and =>
    simp [encode, decodeWord_of_op, decodeOp]
  case addi | slti | xori | ori | andi =>
    simp [encode, decodeWord_of_opImm, decodeOpImm]
  case slli | srli | srai =>
    simp [encode, decodeWord_of_opImm, decodeOpImm]
  case lui => simp [encode, decodeWord_of_lui]
  case lw => simp [encode, decodeWord_of_load]
  case sw => simp [encode, decodeWord_of_store]
  case beq | bne | blt | bge | bltu | bgeu =>
    simp only [encode, decodeWord_of_branch (opcodeOf_encB ..), decodeBranch, offBOf_encB_of_even _ _ _ hwf]
    simp
  case jal =>
    simp only [encode, decodeWord_of_jal (opcodeOf_encJ ..), rdOf_encJ, offJOf_encJ_of_even _ hwf]
  case nop => rfl

/-! ### Encoding what was decoded: a word is made of its fields -/

section
variable {w : Word}

/-- The I immediate is funct7 above the rs2 field (30 R121, R124). -/
theorem immIOf_eq_append (w : Word) : immIOf w = funct7Of w ++ rs2Of w := by
  simp (disch := decide) only [immIOf, funct7Of, rs2Of, BitVec.extractLsb'_append_extractLsb'_eq_extractLsb']

theorem encR_fields (ho : opcodeOf w = opOP) : encR (funct7Of w) (funct3Of w) (rdOf w) (rs1Of w) (rs2Of w) = w := by
  simp (disch := decide) only [encR, ← ho, opcodeOf, funct7Of, funct3Of, rdOf, rs1Of, rs2Of,
    BitVec.extractLsb'_append_extractLsb'_eq_extractLsb', extract_self]

theorem encI_fields (w : Word) : encI (opcodeOf w) (funct3Of w) (rdOf w) (rs1Of w) (immIOf w) = w := by
  simp (disch := decide) only [encI, opcodeOf, funct3Of, rdOf, rs1Of, immIOf,
    BitVec.extractLsb'_append_extractLsb'_eq_extractLsb', extract_self]

theorem encShift_fields (ho : opcodeOf w = opOPIMM) :
    encShift (funct7Of w) (funct3Of w) (rdOf w) (rs1Of w) (shamtOf w) = w := by
  rw [encShift_eq_encI, ← ho, shamtOf, ← rs2Of, ← immIOf_eq_append, encI_fields]

theorem encS_fields (ho : opcodeOf w = opSTORE) (hf : funct3Of w = 0b010#3) : encS (rs1Of w) (rs2Of w) (immSOf w) = w := by
  simp (disch := decide) only [encS, immSOf, ← ho, ← hf, opcodeOf, funct3Of, rs1Of, rs2Of, extract_append_high,
    extract_append_low, Nat.reduceSub, BitVec.extractLsb'_append_extractLsb'_eq_extractLsb', extract_self]

theorem encB_fields (ho : opcodeOf w = opBRANCH) : encB (funct3Of w) (rs1Of w) (rs2Of w) (offBOf w) = w := by
  simp (disch := decide) only [encB, offBOf, ← ho, opcodeOf, funct3Of, rs1Of, rs2Of, extract_append_high,
    extract_append_low, Nat.reduceSub, BitVec.extractLsb'_append_extractLsb'_eq_extractLsb', extract_self]

theorem encJ_fields (ho : opcodeOf w = opJAL) : encJ (rdOf w) (offJOf w) = w := by
  simp (disch := decide) only [encJ, offJOf, ← ho, opcodeOf, rdOf, extract_append_high,
    extract_append_low, Nat.reduceSub, BitVec.extractLsb'_append_extractLsb'_eq_extractLsb', extract_self]

theorem encU_fields (ho : opcodeOf w = opLUI) : encU (rdOf w) (immUOf w) = w := by
  simp (disch := decide) only [encU, ← ho, opcodeOf, rdOf, immUOf,
    BitVec.extractLsb'_append_extractLsb'_eq_extractLsb', extract_self]

end

/-- Bit 0 of an offset read from a word is the fixed 0 (30 R126, R127). -/
theorem evenOffset_append_zero {n : Nat} (x : BitVec n) : evenOffset (x ++ 0#1) = true := by
  simp [evenOffset, BitVec.getElem_append]

theorem evenOffset_offBOf (w : Word) : evenOffset (offBOf w) = true := evenOffset_append_zero _

theorem evenOffset_offJOf (w : Word) : evenOffset (offJOf w) = true := evenOffset_append_zero _

/-- The eight values of a funct3 field. -/
theorem funct3_cases (f : BitVec 3) : f = 0b000#3 ∨ f = 0b001#3 ∨ f = 0b010#3 ∨ f = 0b011#3 ∨ f = 0b100#3 ∨ f = 0b101#3 ∨
    f = 0b110#3 ∨ f = 0b111#3 := by
  revert f
  decide

section
variable {w : Word} {i : Instr}

theorem encode_of_decodeOp (ho : opcodeOf w = opOP) (h : decodeOp w = .instr i) :
    encode i = w ∧ i.wellFormed = true := by
  have hw := encR_fields ho
  unfold decodeOp at h
  split_ifs at h with h7 h0 h1 h2 h3 h4 h5 h6 h7' h0 h5 <;> cases h
  case neg =>
    have hf : funct3Of w = 0b111#3 := by simpa only [h0, h1, h2, h3, h4, h5, h6, false_or] using funct3_cases (funct3Of w)
    rw [h7, hf] at hw
    exact ⟨hw, rfl⟩
  all_goals simp only [*] at hw; exact ⟨hw, rfl⟩

/-- ADDI, SLTI, XORI, ORI and ANDI are I words, the other three shift words. -/
theorem encode_of_decodeOpImm (ho : opcodeOf w = opOPIMM) (h : decodeOpImm w = .instr i) :
    encode i = w ∧ i.wellFormed = true := by
  have hi := encI_fields w
  have hs := encShift_fields ho
  unfold decodeOpImm at h
  split_ifs at h <;> cases h <;> simp only [*] at hi hs
  exacts [⟨hi, rfl⟩, ⟨hs, rfl⟩, ⟨hi, rfl⟩, ⟨hi, rfl⟩, ⟨hs, rfl⟩, ⟨hs, rfl⟩, ⟨hi, rfl⟩, ⟨hi, rfl⟩]

theorem encode_of_decodeBranch (ho : opcodeOf w = opBRANCH) (h : decodeBranch w = .instr i) :
    encode i = w ∧ i.wellFormed = true := by
  have hw := encB_fields ho
  unfold decodeBranch at h
  split_ifs at h <;> cases h <;> simp only [*] at hw <;> exact ⟨hw, evenOffset_offBOf w⟩

end

/-- Settles O2: in each branch of the classifier the fields it tests are the fixed fields of the encoder, and the operands are the
others, so the encoder puts the same word together. -/
theorem encodeOfDecode : Obligations.EncodeOfDecode := by
  intro w i
  refine decodeWord_cases (P := fun d => d = .instr i → encode i = w ∧ i.wellFormed = true) ?zero encode_of_decodeOp
    encode_of_decodeOpImm ?load ?loadOther ?store ?storeOther encode_of_decodeBranch ?jal ?lui ?other
  case zero => rintro rfl h; cases h; exact ⟨rfl, rfl⟩
  case load => intro ho hf h; cases h; exact ⟨by simpa only [ho, hf, encode] using encI_fields w, rfl⟩
  case store => intro ho hf h; cases h; exact ⟨encS_fields ho hf, rfl⟩
  case jal => intro ho h; cases h; exact ⟨encJ_fields ho, evenOffset_offJOf w⟩
  case lui => intro ho h; cases h; exact ⟨encU_fields ho, rfl⟩
  case loadOther | storeOther | other => intro _ _ h; cases h

/-! ### The opcode table's rows (30 R132) -/

/-- The word of every instruction lies in the row of the instruction. -/
theorem encode_mem_row (i : Instr) : encode i &&& (rowOf i).mask = (rowOf i).value := by
  cases i
  case add => exact Laws.EncodesItsRow.add ..
  case sub => exact Laws.EncodesItsRow.sub ..
  case sll => exact Laws.EncodesItsRow.sll ..
  case slt => exact Laws.EncodesItsRow.slt ..
  case sltu => exact Laws.EncodesItsRow.sltu ..
  case xor => exact Laws.EncodesItsRow.xor ..
  case srl => exact Laws.EncodesItsRow.srl ..
  case sra => exact Laws.EncodesItsRow.sra ..
  case or => exact Laws.EncodesItsRow.or ..
  case and => exact Laws.EncodesItsRow.and ..
  case addi => exact Laws.EncodesItsRow.addi ..
  case slti => exact Laws.EncodesItsRow.slti ..
  case xori => exact Laws.EncodesItsRow.xori ..
  case ori => exact Laws.EncodesItsRow.ori ..
  case andi => exact Laws.EncodesItsRow.andi ..
  case slli => exact Laws.EncodesItsRow.slli ..
  case srli => exact Laws.EncodesItsRow.srli ..
  case srai => exact Laws.EncodesItsRow.srai ..
  case lui => exact Laws.EncodesItsRow.lui ..
  case lw => exact Laws.EncodesItsRow.lw ..
  case sw => exact Laws.EncodesItsRow.sw ..
  case beq => exact Laws.EncodesItsRow.beq ..
  case bne => exact Laws.EncodesItsRow.bne ..
  case blt => exact Laws.EncodesItsRow.blt ..
  case bge => exact Laws.EncodesItsRow.bge ..
  case bltu => exact Laws.EncodesItsRow.bltu ..
  case bgeu => exact Laws.EncodesItsRow.bgeu ..
  case jal => exact Laws.EncodesItsRow.jal ..
  case nop => exact Laws.EncodesItsRow.nop

/-! Two words that agree under a row's mask agree in the fields the mask fixes. -/

section
variable {w v : Word}

theorem fields_of_mask_all (h : w &&& 0xFE00707F#32 = v &&& 0xFE00707F#32) :
    funct7Of w = funct7Of v ∧ funct3Of w = funct3Of v ∧ opcodeOf w = opcodeOf v := by
  simp only [mask_all] at h
  refine ⟨?_, ?_, ?_⟩
  · simpa (disch := decide) only [extract_append_high, Nat.reduceSub, extract_self] using congrArg (·.extractLsb' 25 7) h
  · simpa (disch := decide) only [extract_append_high, extract_append_low, Nat.reduceSub, extract_self] using
      congrArg (·.extractLsb' 12 3) h
  · simpa (disch := decide) only [extract_append_low, extract_self] using congrArg (·.extractLsb' 0 7) h

theorem fields_of_mask_funct3 (h : w &&& 0x0000707F#32 = v &&& 0x0000707F#32) :
    funct3Of w = funct3Of v ∧ opcodeOf w = opcodeOf v := by
  simp only [mask_funct3] at h
  refine ⟨?_, ?_⟩
  · simpa (disch := decide) only [extract_append_high, extract_append_low, Nat.reduceSub, extract_self] using
      congrArg (·.extractLsb' 12 3) h
  · simpa (disch := decide) only [extract_append_low, extract_self] using congrArg (·.extractLsb' 0 7) h

theorem opcode_of_mask_opcode (h : w &&& 0x0000007F#32 = v &&& 0x0000007F#32) : opcodeOf w = opcodeOf v := by
  simp only [mask_opcode] at h
  simpa (disch := decide) only [extract_append_low, extract_self] using congrArg (·.extractLsb' 0 7) h

end

/-- A word in the row of `i` agrees with the word of `i` under the row's mask, and so decodes. -/
theorem decodes_of_mem_row {w : Word} {i : Instr} (h : w &&& (rowOf i).mask = (rowOf i).value) :
    ∃ j, decodeWord w = .instr j := by
  rw [← encode_mem_row i] at h
  cases i
  case add | sub | sll | slt | sltu | xor | srl | sra | or | and =>
    obtain ⟨h7, h3, ho⟩ := fields_of_mask_all h
    simp only [encode, funct7Of_encR, funct3Of_encR, opcodeOf_encR] at h7 h3 ho
    simp [decodeWord_of_op ho, decodeOp, h7, h3]
  case slli | srli | srai =>
    obtain ⟨h7, h3, ho⟩ := fields_of_mask_all h
    simp only [encode, funct7Of_encShift, funct3Of_encShift, opcodeOf_encShift] at h7 h3 ho
    simp [decodeWord_of_opImm ho, decodeOpImm, h7, h3]
  case addi | slti | xori | ori | andi =>
    obtain ⟨h3, ho⟩ := fields_of_mask_funct3 h
    simp only [encode, funct3Of_encI, opcodeOf_encI] at h3 ho
    simp [decodeWord_of_opImm ho, decodeOpImm, h3]
  case lw =>
    obtain ⟨h3, ho⟩ := fields_of_mask_funct3 h
    simp only [encode, funct3Of_encI, opcodeOf_encI] at h3 ho
    simp [decodeWord_of_load ho, h3]
  case sw =>
    obtain ⟨h3, ho⟩ := fields_of_mask_funct3 h
    simp only [encode, funct3Of_encS, opcodeOf_encS] at h3 ho
    simp [decodeWord_of_store ho, h3]
  case beq | bne | blt | bge | bltu | bgeu =>
    obtain ⟨h3, ho⟩ := fields_of_mask_funct3 h
    simp only [encode, funct3Of_encB, opcodeOf_encB] at h3 ho
    simp [decodeWord_of_branch ho, decodeBranch, h3]
  case jal => exact ⟨_, decodeWord_of_jal ((opcode_of_mask_opcode h).trans (opcodeOf_encJ ..))⟩
  case lui => exact ⟨_, decodeWord_of_lui ((opcode_of_mask_opcode h).trans (opcodeOf_encU ..))⟩
  case nop =>
    have hw : w = 0#32 := by rwa [show (rowOf .nop).mask = BitVec.allOnes 32 from rfl, BitVec.and_allOnes] at h
    exact ⟨.nop, by rw [hw, decodeWord_zero]⟩

/-- Settles O3: a decoded word is its instruction's word (O2), which lies in the instruction's row; and a word in a row decodes. -/
theorem decodesByTableRows : Obligations.DecodesByTableRows := by
  intro w
  have hrow : ∀ i, decodeWord w = .instr i → w &&& (rowOf i).mask = (rowOf i).value := by
    intro i h
    obtain ⟨hw, -⟩ := encodeOfDecode w i h
    rw [← hw, encode_mem_row]
  exact ⟨⟨fun ⟨i, h⟩ => ⟨i, hrow i h⟩, fun ⟨_, h⟩ => decodes_of_mem_row h⟩, hrow⟩

/-! ### The rejected words (30 R134, R135) -/

section
variable (w : Word)

theorem decodeOp_ne_unrecognized : decodeOp w ≠ .unrecognized := by
  unfold decodeOp
  split_ifs <;> nofun

theorem decodeOpImm_ne_unrecognized : decodeOpImm w ≠ .unrecognized := by
  unfold decodeOpImm
  split_ifs <;> nofun

theorem decodeBranch_ne_unrecognized : decodeBranch w ≠ .unrecognized := by
  unfold decodeBranch
  split_ifs <;> nofun

/-- Opcode OP: funct7 0 leaves no funct3 out, funct7 0100000 all but SUB and SRA (30 R135). -/
theorem decodeOp_unsupported_iff : decodeOp w = .unsupported ↔ funct7Of w ≠ 0b0000000#7 ∧
    (funct7Of w = 0b0100000#7 → funct3Of w ≠ 0b000#3 ∧ funct3Of w ≠ 0b101#3) := by
  unfold decodeOp
  split_ifs <;> simp_all

/-- Opcode OP-IMM: funct3 011, and the shifts with other selector bits (30 R130, R135). -/
theorem decodeOpImm_unsupported_iff : decodeOpImm w = .unsupported ↔
    funct3Of w = 0b011#3 ∨ (funct3Of w = 0b001#3 ∧ funct7Of w ≠ 0b0000000#7) ∨
      (funct3Of w = 0b101#3 ∧ funct7Of w ≠ 0b0000000#7 ∧ funct7Of w ≠ 0b0100000#7) := by
  have hf := funct3_cases (funct3Of w)
  unfold decodeOpImm
  split_ifs <;> simp_all

/-- Opcode BRANCH: funct3 010 and 011 (30 R135). -/
theorem decodeBranch_unsupported_iff : decodeBranch w = .unsupported ↔
    funct3Of w = 0b010#3 ∨ funct3Of w = 0b011#3 := by
  have hf := funct3_cases (funct3Of w)
  unfold decodeBranch
  split_ifs <;> simp_all

end

/-- The recognized opcodes (30 R131), in the order of the spec's list. -/
theorem opcode_not_recognized_iff (o : Opcode) :
    o ∉ [0b0110011#7, 0b0010011#7, 0b0000011#7, 0b0100011#7, 0b1100011#7, 0b1101111#7, 0b0110111#7] ↔
      ∀ p ∈ [opOP, opOPIMM, opLOAD, opSTORE, opBRANCH, opJAL, opLUI], o ≠ p := by
  rw [← List.forall_mem_ne]
  rfl

/-- A word is unrecognized exactly when it is not 0 and its opcode is none of the seven (30 R134): each recognized opcode's
branch answers an instruction or unsupported. -/
theorem decodeWord_unrecognized_iff (w : Word) : decodeWord w = .unrecognized ↔ w ≠ 0#32 ∧ opcodeOf w ∉
    [0b0110011#7, 0b0010011#7, 0b0000011#7, 0b0100011#7, 0b1100011#7, 0b1101111#7, 0b0110111#7] := by
  rw [opcode_not_recognized_iff]
  constructor
  · refine decodeWord_cases (P := fun d => d = .unrecognized → w ≠ 0#32 ∧ _) ?_ (fun _ h => ?_) (fun _ h => ?_) ?_ ?_ ?_ ?_
      (fun _ h => ?_) ?_ ?_ (fun h0 ho _ => ⟨h0, ho⟩)
    · nofun
    · exact absurd h (decodeOp_ne_unrecognized w)
    · exact absurd h (decodeOpImm_ne_unrecognized w)
    · nofun
    · nofun
    · nofun
    · nofun
    · exact absurd h (decodeBranch_ne_unrecognized w)
    · nofun
    · nofun
  · rintro ⟨h0, ho⟩
    simp only [List.forall_mem_cons] at ho
    obtain ⟨h1, h2, h3, h4, h5, h6, h7, -⟩ := ho
    simp only [decodeWord, h0, h1, h2, h3, h4, h5, h6, h7, if_false]

/-- Settles O4: the second clause's five opcodes are outside the seven, and not the opcode of the word 0. -/
theorem unrecognizedByOpcode : Obligations.UnrecognizedByOpcode := by
  refine ⟨decodeWord_unrecognized_iff, fun w hmem => (decodeWord_unrecognized_iff w).2 ⟨?_, ?_⟩⟩
  · rintro rfl
    revert hmem
    decide
  · generalize opcodeOf w = o at hmem
    revert o
    decide

/-- Settles O5: the unsupported words of each recognized opcode, and of no other. -/
theorem unsupportedByFunctions : Obligations.UnsupportedByFunctions := by
  intro w
  refine decodeWord_cases (P := fun d => d = .unsupported ↔ _) ?zero ?op ?opImm ?load ?loadOther ?store ?storeOther ?branch
    ?jal ?lui ?other
  case zero => rintro rfl; decide
  case op => intro ho; rw [decodeOp_unsupported_iff, ho]; simp [opOP]
  case opImm => intro ho; rw [decodeOpImm_unsupported_iff, ho]; simp [opOPIMM]
  case load | loadOther => intro ho hf; simp [ho, hf, opLOAD]
  case store | storeOther => intro ho hf; simp [ho, hf, opSTORE]
  case branch => intro ho; rw [decodeBranch_unsupported_iff, ho]; simp [opBRANCH]
  case jal => intro ho; simp [ho, opJAL]
  case lui => intro ho; simp [ho, opLUI]
  case other =>
    intro _ ho
    simp only [List.forall_mem_cons, opOP, opOPIMM, opLOAD, opSTORE, opBRANCH] at ho
    simp [ho]

/-- Settles O6: each word is evaluated by the decoder. -/
theorem sampleWordsDecode : Obligations.SampleWordsDecode := by
  unfold Obligations.SampleWordsDecode
  decide

/-! ### Immediates of encoded words (30 R124 to R130) -/

theorem toNat_upperImm (imm : BitVec 20) : (upperImm imm).toNat = imm.toNat * 4096 := by
  rw [upperImm, BitVec.toNat_append, Nat.shiftLeft_eq]
  simp

/-- The low bits of a sign-extended value are those of the value. -/
theorem extract_low_signExtend {n m k : Nat} (x : BitVec n) (hn : k ≤ n) (hm : k ≤ m) :
    (x.signExtend m).extractLsb' 0 k = x.extractLsb' 0 k := by
  apply BitVec.eq_of_getLsbD_eq
  intro i hi
  have h1 : i < n := by omega
  have h2 : i < m := by omega
  simp only [BitVec.getLsbD_extractLsb', BitVec.getLsbD_signExtend, Nat.zero_add, h1, h2, if_true, decide_true, Bool.true_and]

/-- The low five bits of a shift's extended immediate are its amount, whatever its selector bits (30 R130). -/
theorem extract_immOf_encShift (f7 : BitVec 7) (f3 : BitVec 3) (rd rs1 : RegIdx) (shamt : BitVec 5) :
    (immOf (encShift f7 f3 rd rs1 shamt)).extractLsb' 0 5 = shamt := by
  rw [encShift_eq_encI, immOf_of_opImm (opcodeOf_encI ..), immIOf_encI, extract_low_signExtend _ (by decide) (by decide),
    extract_append_low _ _ (by decide), extract_self]

theorem toNat_extract_low_five (v : Word) : (v.extractLsb' 0 5).toNat = v.toNat % 32 := by
  simp

/-- Settles O8: each format's immediate is the field the decoder extends, and extension keeps its signed value. -/
theorem immediatesOfEncodedWords : Obligations.ImmediatesOfEncodedWords := by
  refine ⟨fun f3 rd rs1 imm => ?_, fun f3 rd rs1 imm => ?_, fun rs1 rs2 imm => ?_, fun f3 rs1 rs2 off heven => ?_,
    fun rd off heven => ?_, fun rd imm => ?_, fun f7 f3 rd rs1 shamt => ?_, fun f7 f3 rd rs1 rs2 => ?_, immOf_zero⟩
  · rw [immOf_of_opImm (opcodeOf_encI ..), immIOf_encI, BitVec.toInt_signExtend_of_le (by decide)]
  · rw [immOf_of_load (opcodeOf_encI ..), immIOf_encI, BitVec.toInt_signExtend_of_le (by decide)]
  · rw [immOf_of_store (opcodeOf_encS ..), immSOf_encS, BitVec.toInt_signExtend_of_le (by decide)]
  · rw [immOf_of_branch (opcodeOf_encB ..), offBOf_encB_of_even _ _ _ heven, BitVec.toInt_signExtend_of_le (by decide)]
  · rw [immOf_of_jal (opcodeOf_encJ ..), offJOf_encJ_of_even _ heven, BitVec.toInt_signExtend_of_le (by decide)]
  · rw [immOf_of_lui (opcodeOf_encU ..), immUOf_encU, toNat_upperImm]
  · rw [← toNat_extract_low_five, extract_immOf_encShift]
  · exact immOf_of_op (opcodeOf_encR ..)

end Sys2Proof
end

section
/-! Memory beyond one access: a read after a write, what a read depends on, which addresses are listed, the bytes of the
program load (20 R82 to R87; 70 R608 to R610), and the obligations O11 and O12. -/

namespace Sys2Proof.Machine

/-! ### Words of memory -/

/-- A word depends on its four bytes. -/
theorem Memory.wordAt_congr {m n : Memory} {a : Nat} (h : ∀ k < 4, m.readByte (a + k) = n.readByte (a + k)) :
    m.wordAt a = n.wordAt a := by
  have h0 : m.readByte a = n.readByte a := h 0 (by decide)
  rw [Memory.wordAt, Memory.wordAt, h0, h 1 (by decide), h 2 (by decide), h 3 (by decide)]

theorem Memory.wordAt_putWord {m : Memory} (a : Nat) (v : Word) (hm : m.wf = true) : (m.putWord a v).wordAt a = v := by
  have h0 : (m.putWord a v).readByte a = byteOf v 0 := Memory.readByte_putWord m a 0 v (by decide) hm
  rw [Memory.wordAt, h0, Memory.readByte_putWord m a 1 v (by decide) hm, Memory.readByte_putWord m a 2 v (by decide) hm,
    Memory.readByte_putWord m a 3 v (by decide) hm, wordOfBytes_bytes]

theorem memRead_congr (cfg : Config) {m n : Memory} {a : Word}
    (h : ∀ k < 4, m.readByte (a.toNat + k) = n.readByte (a.toNat + k)) : memRead cfg m a = memRead cfg n a := by
  rw [memRead, memRead, Memory.wordAt_congr h]

/-- A read after a write that reaches memory (20 R87). -/
theorem memRead_memWrite {cfg : Config} {m : Memory} {a : Word} (v : Word) (hm : m.wf = true)
    (h : accessible cfg a = true) : memRead cfg (memWrite cfg m a v) a = v := by
  rw [memRead_of_accessible _ h, memWrite_of_accessible m v h, Memory.wordAt_putWord _ _ hm]

/-- Settles O11: the condition of the statement is that the access reaches memory. -/
theorem readAfterWrite : Obligations.ReadAfterWrite := by
  intro cfg m a v hm
  split
  case isTrue h => exact memRead_memWrite v hm ((accessible_iff cfg a).2 h)
  case isFalse h => exact memRead_of_not_accessible _ fun hacc => h ((accessible_iff cfg a).1 hacc)

/-! ### The canonical form determines memory -/

theorem Memory.readByte_cons_self (c : Host.Cell) (m : Memory) : Memory.readByte (c :: m) c.1 = c.2 := if_pos rfl

theorem Memory.readByte_cons_of_ne {c : Host.Cell} {a : Nat} (m : Memory) (h : c.1 ≠ a) :
    Memory.readByte (c :: m) a = m.readByte a := if_neg h

/-- An address below the first listed one reads 0. -/
theorem Memory.readByte_cons_of_lt {c : Host.Cell} {m : Memory} {a : Nat} (hwf : Memory.wf (c :: m) = true)
    (h : a < c.1) : Memory.readByte (c :: m) a = 0#8 := by
  obtain ⟨hlt, -, -⟩ := (Memory.wf_cons c m).1 hwf
  refine Memory.readByte_of_lt _ _ fun d hd => ?_
  rcases List.mem_cons.1 hd with rfl | hd
  · exact h
  · exact h.trans (hlt d hd)

/-- The first listed addresses of two canonical memories with the same bytes: neither is above the other. -/
theorem Memory.head_le_of_readByte_eq {c d : Host.Cell} {m n : Memory} (hm : Memory.wf (c :: m) = true)
    (hn : Memory.wf (d :: n) = true) (h : ∀ a, Memory.readByte (c :: m) a = Memory.readByte (d :: n) a) : d.1 ≤ c.1 := by
  obtain ⟨-, hc, -⟩ := (Memory.wf_cons c m).1 hm
  by_contra hlt
  have := h c.1
  rw [Memory.readByte_cons_self, Memory.readByte_cons_of_lt hn (Nat.lt_of_not_le hlt)] at this
  exact hc this

/-- Settles O12, by induction on one memory: both list first the lowest address that does not read 0, with the byte there. -/
theorem equalBytesEqualMemories : Obligations.EqualBytesEqualMemories := by
  intro m
  induction m with
  | nil =>
    intro n _ hn h
    cases n with
    | nil => rfl
    | cons d n =>
      obtain ⟨-, hd, -⟩ := (Memory.wf_cons d n).1 hn
      exact absurd ((Memory.readByte_cons_self d n).symm.trans (h d.1).symm) hd
  | cons c m ih =>
    intro n hm hn h
    obtain ⟨hltm, hc, hwfm⟩ := (Memory.wf_cons c m).1 hm
    cases n with
    | nil => exact absurd ((Memory.readByte_cons_self c m).symm.trans (h c.1)) hc
    | cons d n =>
      obtain ⟨hltn, -, hwfn⟩ := (Memory.wf_cons d n).1 hn
      have haddr : c.1 = d.1 := Nat.le_antisymm (Memory.head_le_of_readByte_eq hn hm fun a => (h a).symm)
        (Memory.head_le_of_readByte_eq hm hn h)
      have hbyte : c.2 = d.2 := by
        have := h c.1
        rwa [Memory.readByte_cons_self, haddr, Memory.readByte_cons_self] at this
      have htail : m = n := by
        refine ih n hwfm hwfn fun a => ?_
        by_cases ha : c.1 = a
        · subst ha
          rw [Memory.readByte_of_lt m _ hltm, haddr, Memory.readByte_of_lt n _ hltn]
        · rw [← Memory.readByte_cons_of_ne m ha, h a, Memory.readByte_cons_of_ne n (haddr ▸ ha)]
      rw [Prod.ext haddr hbyte, htail]

/-! ### Memory lists only addresses inside a region -/

/-- Every listed address is in some region (the invariant's `memMapped`). -/
def Mapped (cfg : Config) (m : Memory) : Prop := ∀ c ∈ m, (regionOf cfg c.1).isSome = true

theorem mapped_nil (cfg : Config) : Mapped cfg [] := nofun

theorem mapped_writeByte {cfg : Config} {m : Memory} {a : Nat} (v : Byte) (hm : Mapped cfg m)
    (ha : (regionOf cfg a).isSome = true) : Mapped cfg (m.writeByte a v) := by
  intro c hc
  rcases Memory.addr_of_mem_writeByte m a v c hc with h | h
  · rw [h]; exact ha
  · exact hm c h

/-- The end of a well-formed region leaves room for the whole word at an aligned address inside it (20 R81). -/
theorem regionOf_word_isSome {cfg : Config} {a : Word} {k : Nat} (hr : regionsWf cfg.regions = true)
    (h : accessible cfg a = true) (hk : k < 4) : (regionOf cfg (a.toNat + k)).isSome = true := by
  obtain ⟨hal, r, hmem, hlo, hhi⟩ := (accessible_iff cfg a).1 h
  have hwf : regionWf r = true := by
    simp only [regionsWf, Bool.and_eq_true, List.all_eq_true] at hr
    exact hr.1 r hmem
  simp only [regionWf, decide_eq_true_eq] at hwf
  exact (regionOf_isSome_iff _ _).2 ⟨r, hmem, by omega, by omega⟩

theorem mapped_memWrite {cfg : Config} {m : Memory} (a v : Word) (hr : regionsWf cfg.regions = true)
    (hm : Mapped cfg m) : Mapped cfg (memWrite cfg m a v) := by
  by_cases h : accessible cfg a = true
  · rw [memWrite_of_accessible m v h, Memory.putWord]
    exact mapped_writeByte _ (mapped_writeByte _ (mapped_writeByte _ (mapped_writeByte _ hm
      (regionOf_word_isSome hr h (k := 0) (by decide))) (regionOf_word_isSome hr h (by decide)))
      (regionOf_word_isSome hr h (by decide))) (regionOf_word_isSome hr h (by decide))
  · rwa [memWrite_of_not_accessible m v h]

/-! ### The program load (70 R608) -/

theorem mapped_loadWords {cfg : Config} (hr : regionsWf cfg.regions = true) (ws : List Word) {m : Memory} (a : Word)
    (hm : Mapped cfg m) : Mapped cfg (loadWords cfg m a ws) := by
  induction ws generalizing m a with
  | nil => exact hm
  | cons w ws ih => exact ih _ (mapped_memWrite a w hr hm)

/-- The address of the next word of a load that does not pass the end of the address space, unless the load ends there. -/
theorem toNat_add_four {a : Word} (h : a.toNat + 4 < 2 ^ 32) : (a + 4#32).toNat = a.toNat + 4 := by
  rw [BitVec.toNat_add, show (4#32 : Word).toNat = 4 from rfl, Nat.mod_eq_of_lt h]

theorem readByte_loadWords_other (cfg : Config) (ws : List Word) (m : Memory) (a : Word) {b : Nat}
    (hend : a.toNat + 4 * ws.length ≤ 2 ^ 32) (hb : b < a.toNat ∨ a.toNat + 4 * ws.length ≤ b) :
    (loadWords cfg m a ws).readByte b = m.readByte b := by
  induction ws generalizing m a with
  | nil => rfl
  | cons w ws ih =>
    rw [List.length_cons] at hend hb
    have hfirst : (memWrite cfg m a w).readByte b = m.readByte b := readByte_memWrite_other cfg m a w (by omega)
    cases ws with
    | nil => exact hfirst
    | cons w' ws =>
      rw [List.length_cons] at hend hb
      have hnext := toNat_add_four (a := a) (by omega)
      rw [loadWords, ih _ _ (by rw [hnext, List.length_cons]; omega) (by rw [hnext, List.length_cons]; omega), hfirst]

/-- The words of a load above `a` leave the word at `a` as it was. -/
theorem memRead_loadWords_above (cfg : Config) (ws : List Word) (m : Memory) (a : Word)
    (hend : a.toNat + 4 * (ws.length + 1) ≤ 2 ^ 32) :
    memRead cfg (loadWords cfg m (a + 4#32) ws) a = memRead cfg m a := by
  cases ws with
  | nil => rfl
  | cons w ws =>
    rw [List.length_cons] at hend
    have hnext := toNat_add_four (a := a) (by omega)
    refine memRead_congr cfg fun k hk => ?_
    exact readByte_loadWords_other _ _ _ _ (by rw [hnext, List.length_cons]; omega) (by rw [hnext]; omega)

/-- The address of word `j` behind the first is that of word `j + 1` of the whole. -/
theorem add_four_add_ofNat (a : Word) (j : Nat) :
    a + 4#32 + BitVec.ofNat 32 (4 * j) = a + BitVec.ofNat 32 (4 * (j + 1)) := by
  rw [BitVec.add_assoc, ← BitVec.ofNat_add, Nat.mul_succ, Nat.add_comm 4]

/-- Word `i` of a load reads back at `a + 4 * i`: it is written there, and the words after it go above it. -/
theorem memRead_loadWords (cfg : Config) (ws : List Word) (m : Memory) (a : Word) (hm : m.wf = true)
    (hend : a.toNat + 4 * ws.length ≤ 2 ^ 32)
    (hacc : ∀ i < ws.length, accessible cfg (a + BitVec.ofNat 32 (4 * i)) = true) (i : Nat) (hi : i < ws.length) :
    memRead cfg (loadWords cfg m a ws) (a + BitVec.ofNat 32 (4 * i)) = ws[i] := by
  induction ws generalizing m a i with
  | nil => exact absurd hi (Nat.not_lt_zero i)
  | cons w ws ih =>
    rw [List.length_cons] at hend hi hacc
    cases i with
    | zero =>
      have hfirst : accessible cfg a = true := by simpa only [Nat.mul_zero, BitVec.add_zero] using hacc 0 (Nat.succ_pos _)
      rw [Nat.mul_zero, BitVec.add_zero, loadWords, memRead_loadWords_above cfg ws _ a hend, memRead_memWrite w hm hfirst,
        List.getElem_cons_zero]
    | succ i =>
      have hnext := toNat_add_four (a := a) (by omega)
      rw [← add_four_add_ofNat]
      refine ih _ _ (wf_memWrite cfg m a w hm) (by rw [hnext]; omega) (fun j hj => ?_) i (by omega)
      rw [add_four_add_ofNat]
      exact hacc (j + 1) (by omega)

end Sys2Proof.Machine
end

section
/-! A step as one cycle (40 R206): what execute produces for the word in `IDEX`, what every cycle commits whatever execute
produces, the halt, and the obligations O13 to O19. -/

namespace Sys2Proof.Machine

/-! ### Execute's output for the word in `IDEX` (40 R242, R246) -/

theorem execOutWord_unrecognized {s : State} (h : decodeWord s.idex.word = .unrecognized) :
    execOutWord s = .bubble .unrecognizedOpcode := by
  simp only [execOutWord, h]

theorem execOutWord_unsupported {s : State} (h : decodeWord s.idex.word = .unsupported) :
    execOutWord s = .bubble .unsupportedFunct := by
  simp only [execOutWord, h]

/-- A word that is no instruction gives a bubble with a halt event (40 R246). -/
theorem execOutWord_rejected {s : State} (h : ∀ i, decodeWord s.idex.word ≠ .instr i) :
    ∃ r, r ≠ HaltReason.noHalt ∧ execOutWord s = .bubble r := by
  cases hd : decodeWord s.idex.word with
  | instr i => exact absurd hd (h i)
  | unrecognized => exact ⟨.unrecognizedOpcode, nofun, execOutWord_unrecognized hd⟩
  | unsupported => exact ⟨.unsupportedFunct, nofun, execOutWord_unsupported hd⟩

/-- A running core with an instruction in execute runs that instruction's cycle. -/
theorem step_instr {s : State} {i : Instr} (hrun : s.halt.halted = false) (h : decodeWord s.idex.word = .instr i) :
    step s = .next (cycle s (execOut i s)) := by
  rw [step_running hrun, execOutWord_instr h]

/-- The state a step of a running core answers. -/
theorem eq_cycle_of_step {s t : State} (hrun : s.halt.halted = false) (h : step s = .next t) :
    t = cycle s (execOutWord s) := by
  rw [step_running hrun] at h
  exact (Host.Outcome.next.inj h).symm

/-! ### Registers after writeback (40 R221 to R223) -/

theorem writebackRegs_of_write {l : MEMWB} (cfg : Config) (x : Vector Word 32) (h : l.regWrite = true) :
    writebackRegs cfg x l = writeReg cfg x l.rd (writebackValue l) := if_pos h

theorem writebackRegs_of_not_write {l : MEMWB} (cfg : Config) (x : Vector Word 32) (h : l.regWrite = false) :
    writebackRegs cfg x l = x := by
  rw [writebackRegs, h, if_neg Bool.false_ne_true]

/-- A state whose registers are those of `s` after one register write. -/
theorem writesOnly_of_writeReg {s t : State} {rd : RegIdx} {v : Word} (hcfg : t.cfg = s.cfg)
    (hx : t.x = writeReg s.cfg s.x rd v) : WritesOnly s t rd v := by
  have hrd : t.reg rd = if s.cfg.x0HardwiredZero = true ∧ rd = 0#5 then 0#32 else v := by
    rw [State.reg, hcfg, hx, readReg_writeReg_same]
  refine ⟨fun hkept => hrd.trans (if_neg hkept), fun hdisc => hrd.trans (if_pos hdisc), fun q hq => ?_⟩
  rw [State.reg, State.reg, hcfg, hx, readReg_writeReg_other _ _ _ _ _ hq]

theorem cycle_writesOnly {s : State} (e : ExecOut) (h : s.memwb.regWrite = true) :
    WritesOnly s (cycle s e) s.memwb.rd (writebackValue s.memwb) :=
  writesOnly_of_writeReg rfl (writebackRegs_of_write s.cfg s.x h)

theorem cycle_sameRegs {s : State} (e : ExecOut) (h : s.memwb.regWrite = false) : SameRegs s (cycle s e) := by
  intro q
  rw [State.reg, State.reg, cycle_cfg, cycle_x, writebackRegs_of_not_write _ _ h]

/-! ### Memory after the memory stage (40 R231, R232) -/

theorem cycleMem_of_store {s : State} (h : isStore s.exmem.word = true) :
    cycleMem s = memWrite s.cfg s.mem s.exmem.aluOut s.exmem.opB := if_pos h

theorem cycleMem_of_not_store {s : State} (h : isStore s.exmem.word = false) : cycleMem s = s.mem :=
  memoryStageMem_of_not_store h

theorem wf_cycleMem {s : State} (h : s.mem.wf = true) : (cycleMem s).wf = true := by
  cases hs : isStore s.exmem.word with
  | true => rw [cycleMem_of_store hs]; exact wf_memWrite _ _ _ _ h
  | false => rwa [cycleMem_of_not_store hs]

theorem readByte_cycleMem_other {s : State} {a : Nat} (h : a < s.exmem.aluOut.toNat ∨ s.exmem.aluOut.toNat + 4 ≤ a) :
    (cycleMem s).readByte a = s.mem.readByte a := by
  cases hs : isStore s.exmem.word with
  | true => rw [cycleMem_of_store hs, readByte_memWrite_other _ _ _ _ h]
  | false => rw [cycleMem_of_not_store hs]

/-! ### The whole cycle -/

/-- Every cycle, whatever execute produces, commits the rest of the pipeline. -/
theorem wholeCycle_cycle (s : State) (e : ExecOut) : WholeCycle s (cycle s e) where
  cfg := rfl
  regs := cycle_writesOnly e
  noRegs := cycle_sameRegs e
  hi := rfl
  lo := rfl
  forwarding := cycleDecode_forwarding s e
  memwb := rfl
  stored := cycleMem_of_store
  memFrame _ := readByte_cycleMem_other
  memSame h _ := by rw [cycle_mem, cycleMem_of_not_store h]
  fetched := rfl
  pc := rfl
  cycleCount := rfl
  instretCount := rfl

/-! ### Decode's cases (40 R251 to R262) -/

section
variable {s : State} {e : ExecOut}

theorem cycleDecode_of_branchBubble (h : (releaseStall s.stall s.memwb).mode = .branchBubble) :
    cycleDecode s e = ⟨IDEX.zero, { releaseStall s.stall s.memwb with mode := .normal }, false⟩ := by
  simp only [cycleDecode, decodeStage, h]

theorem cycleDecode_of_stalled (h : (releaseStall s.stall s.memwb).mode = .stalled) :
    cycleDecode s e = ⟨IDEX.zero, releaseStall s.stall s.memwb, true⟩ := by
  simp only [cycleDecode, decodeStage, h]

theorem cycleDecode_of_normal (h : DecodesNormally s) :
    cycleDecode s e = decodeNormal s.cfg (releaseStall s.stall s.memwb) (cycleBypass s e) s.ifid := by
  rw [DecodesNormally] at h
  simp only [cycleDecode, decodeStage, h]

theorem cycleDecode_of_nop (h : DecodesNormally s) (h0 : s.ifid.word = 0#32) :
    cycleDecode s e = ⟨IDEX.zero, releaseStall s.stall s.memwb, false⟩ := by
  rw [cycleDecode_of_normal h, decodeNormal, if_pos h0]

theorem cycleDecode_of_hazard (h : DecodesNormally s) (h0 : s.ifid.word ≠ 0#32) (hf : s.stall.forwarding = false)
    (hz : hazard (cycleBypass s e) s.ifid.word = true) :
    cycleDecode s e = ⟨IDEX.zero, enterStall (releaseStall s.stall s.memwb) (cycleBypass s e) s.ifid.word, true⟩ := by
  rw [cycleDecode_of_normal h, decodeNormal, if_neg h0, releaseStall_forwarding, if_pos ⟨hf, hz⟩]

/-- Decode passes the word: with forwarding always, without it where there is no hazard. -/
theorem cycleDecode_of_pass (h : DecodesNormally s) (h0 : s.ifid.word ≠ 0#32)
    (hp : ¬ (s.stall.forwarding = false ∧ hazard (cycleBypass s e) s.ifid.word = true)) :
    cycleDecode s e = ⟨passLatch s.cfg s.stall.forwarding (cycleBypass s e) s.ifid,
      if isControl s.ifid.word then { releaseStall s.stall s.memwb with mode := .branchBubble }
      else releaseStall s.stall s.memwb, false⟩ := by
  rw [cycleDecode_of_normal h, decodeNormal, if_neg h0, releaseStall_forwarding, if_neg hp]
  simp only [releaseStall_forwarding]

/-- What decode can do in a cycle, said once: its five cases. -/
theorem cycleDecode_cases (s : State) (e : ExecOut) {P : DecodeOut → Prop}
    (bubble : (releaseStall s.stall s.memwb).mode = .branchBubble →
      P ⟨IDEX.zero, { releaseStall s.stall s.memwb with mode := .normal }, false⟩)
    (stalled : (releaseStall s.stall s.memwb).mode = .stalled → P ⟨IDEX.zero, releaseStall s.stall s.memwb, true⟩)
    (nop : DecodesNormally s → s.ifid.word = 0#32 → P ⟨IDEX.zero, releaseStall s.stall s.memwb, false⟩)
    (enter : DecodesNormally s → s.ifid.word ≠ 0#32 → s.stall.forwarding = false →
      hazard (cycleBypass s e) s.ifid.word = true →
      P ⟨IDEX.zero, enterStall (releaseStall s.stall s.memwb) (cycleBypass s e) s.ifid.word, true⟩)
    (pass : DecodesNormally s → s.ifid.word ≠ 0#32 →
      ¬ (s.stall.forwarding = false ∧ hazard (cycleBypass s e) s.ifid.word = true) →
      P ⟨passLatch s.cfg s.stall.forwarding (cycleBypass s e) s.ifid,
        if isControl s.ifid.word then { releaseStall s.stall s.memwb with mode := .branchBubble }
        else releaseStall s.stall s.memwb, false⟩) : P (cycleDecode s e) := by
  cases hm : (releaseStall s.stall s.memwb).mode with
  | branchBubble => rw [cycleDecode_of_branchBubble hm]; exact bubble hm
  | stalled => rw [cycleDecode_of_stalled hm]; exact stalled hm
  | normal =>
    by_cases h0 : s.ifid.word = 0#32
    · rw [cycleDecode_of_nop hm h0]; exact nop hm h0
    by_cases hp : s.stall.forwarding = false ∧ hazard (cycleBypass s e) s.ifid.word = true
    · rw [cycleDecode_of_hazard hm h0 hp.1 hp.2]; exact enter hm h0 hp.1 hp.2
    · rw [cycleDecode_of_pass hm h0 hp]; exact pass hm h0 hp

end

@[simp] theorem enterStall_mode (st : StallState) (b : Bypass) (w : Word) : (enterStall st b w).mode = .stalled := by
  unfold enterStall
  split <;> rfl

/-- Decode holds the word exactly in the cycles that leave the mode Stalled (40 R252, R260). -/
theorem cycleDecode_hold_iff (s : State) (e : ExecOut) :
    (cycleDecode s e).hold = true ↔ (cycleDecode s e).stall.mode = .stalled := by
  refine cycleDecode_cases s e (P := fun d => d.hold = true ↔ d.stall.mode = .stalled) (fun _ => ?_) (fun h => ?_)
    (fun h _ => ?_) (fun _ _ _ _ => ?_) (fun h _ _ => ?_)
  · simp
  · simp [h]
  · rw [DecodesNormally] at h
    simp [h]
  · simp
  · rw [DecodesNormally] at h
    cases isControl s.ifid.word <;> simp [h]

/-! ### Fetch (40 R277) -/

theorem fetchesOn_cycle (s : State) {e : ExecOut} (h : e.redirect = false) : FetchesOn s (cycle s e) := by
  rw [FetchesOn, cycle_ifid, cycle_stall, cycleFetchAddr, fetchAddr, h, if_neg Bool.false_ne_true]
  simp only [cycleDecode_hold_iff]

theorem fetchesAt_cycle (s : State) {e : ExecOut} (h : e.redirect = true) : FetchesAt (cycle s e) e.target := by
  have ha : cycleFetchAddr s e = e.target := by rw [cycleFetchAddr, fetchAddr, h, if_pos rfl]
  exact ⟨ha, by rw [cycle_pc, ha]⟩

/-! ### The step's obligations -/

/-- Settles O13: `step_running`, with execute's output by the class of the word. -/
theorem stepRunsWordInExecute : Obligations.StepRunsWordInExecute := by
  intro s hrun
  refine ⟨fun i h => ?_, fun h => ?_, fun h => ?_⟩
  · rw [step_instr hrun h, exec_eq_cycle]
  · rw [step_running hrun, execOutWord_unrecognized h, haltCycle]
  · rw [step_running hrun, execOutWord_unsupported h, haltCycle]

/-- Settles O14 by `step_eq`, which says what the step answers. -/
theorem everyStepAnswersNext : Obligations.EveryStepAnswersNext := fun s => ⟨_, step_eq s⟩

theorem stepN_halted (n : Nat) {s : State} (h : s.halt.halted = true) : stepN n s = .next s := by
  cases n with
  | zero => rfl
  | succ n => rw [stepN, if_pos h]

theorem runUntilHalt_halted (e : Word) (fuel : Nat) {s : State} (h : s.halt.halted = true) :
    runUntilHalt e fuel s = .next s := by
  cases fuel with
  | zero => rw [runUntilHalt, if_pos h]
  | succ n => rw [runUntilHalt, if_pos h]

theorem runToCompletion_of_endPC {s : State} {e : Word} (fuel : Nat) (h : s.cfg.endPC = some e) :
    runToCompletion fuel s = runUntilHalt e fuel s := by
  simp only [runToCompletion, h]

theorem runToCompletion_of_noEndPC {s : State} (fuel : Nat) (h : s.cfg.endPC = none) :
    runToCompletion fuel s = .refused .endPCNotConfigured := by
  simp only [runToCompletion, h]

/-- Settles O15: the commands that run cycles run none on a halted core, and the others do not write the halt record. -/
theorem onlyResetClearsHalt : Obligations.OnlyResetClearsHalt := by
  intro s hhalt
  refine ⟨step_halted hhalt, fun c t hc h => ?_⟩
  cases c with
  | stepCycles n =>
    rw [Command.run, stepN_halted n hhalt] at h
    cases h; rfl
  | runToCompletion fuel =>
    rw [Command.run] at h
    cases he : s.cfg.endPC with
    | none => rw [runToCompletion_of_noEndPC fuel he] at h; cases h
    | some e => rw [runToCompletion_of_endPC fuel he, runUntilHalt_halted e fuel hhalt] at h; cases h; rfl
  | reset => exact absurd rfl hc
  | setRegister | setHI | setLO | toggleForwarding => cases h; rfl
  | dumpMemory | dumpRegisters | disassemble | showLatches => cases h; rfl

/-- Settles O16: every meaning is one cycle, whose execute output raises no halt event. -/
theorem everyInstructionRunsWholeCycle : Obligations.EveryInstructionRunsWholeCycle := fun i s =>
  ⟨_, exec_eq_cycle i s, wholeCycle_cycle s _, by rw [cycle_halt, execOut_haltEv, commitHalt_none]⟩

/-- Settles O17: an instruction raises no halt event, and a rejected word raises one. -/
theorem haltsExactlyOnRejectedWords : Obligations.HaltsExactlyOnRejectedWords := by
  intro s t hrun h
  obtain rfl := eq_cycle_of_step hrun h
  rw [cycle_halt]
  by_cases hd : ∀ i, decodeWord s.idex.word ≠ .instr i
  · obtain ⟨r, hr, he⟩ := execOutWord_rejected hd
    rw [he, ExecOut.bubble, commitHalt_event _ _ _ hr]
    exact iff_of_true rfl hd
  · refine iff_of_false ?_ hd
    obtain ⟨i, hi⟩ := not_forall_not.1 hd
    rw [execOutWord_instr hi, execOut_haltEv, commitHalt_none, hrun]
    exact Bool.false_ne_true

/-- What a halting cycle leaves: the record, a bubble, and the rest of the cycle (40 R246, R286). -/
theorem haltingCycle_leaves (s : State) {r : HaltReason} (hr : r ≠ .noHalt) :
    WholeCycle s (cycle s (.bubble r)) ∧ FetchesOn s (cycle s (.bubble r)) ∧ (cycle s (.bubble r)).exmem = EXMEM.zero ∧
      (cycle s (.bubble r)).halt = ⟨true, r, s.idex.pc, s.idex.word⟩ :=
  ⟨wholeCycle_cycle s _, fetchesOn_cycle s rfl, rfl, commitHalt_event _ _ _ hr⟩

/-- Settles O18 by `haltingCycle_leaves`, for each of the two reasons. -/
theorem haltRecord : Obligations.HaltRecord := by
  intro s hrun
  refine ⟨fun h => ⟨_, ?_, haltingCycle_leaves s (r := .unrecognizedOpcode) nofun⟩,
    fun h => ⟨_, ?_, haltingCycle_leaves s (r := .unsupportedFunct) nofun⟩⟩
  · rw [step_running hrun, execOutWord_unrecognized h]
  · rw [step_running hrun, execOutWord_unsupported h]

/-- A run from a halted core stays there. -/
theorem run_halted {s : State} (h : s.halt.halted = true) (n : Nat) : Host.Core.run core n s = .next s := by
  induction n with
  | zero => rfl
  | succ n ih => rw [run_succ (step_halted h), ih]

/-- Settles O19: the drain is what the whole cycle does, and the halted state it leaves does not change. -/
theorem haltDrain : Obligations.HaltDrain := by
  intro s hrun hrej
  have hcyc := wholeCycle_cycle s (execOutWord s)
  exact ⟨_, step_running hrun, hcyc.memwb, hcyc.stored, hcyc.regs, hcyc.noRegs,
    run_halted ((haltsExactlyOnRejectedWords s _ hrun (step_running hrun)).2 hrej)⟩

end Sys2Proof.Machine
end

section
/-! The instructions' results (41 to 45): one rule for an instruction in execute, one for each way its result goes on, the
values as integers, and the obligations O20 to O31 and O33. -/

namespace Sys2Proof.Machine

/-! ### From the word in execute to its cycle -/

section
variable {i : Instr} {s t : State} {e : ExecOut}

theorem decode_of_inExecute (hwf : i.wellFormed = true) (h : InExecute (encode i) s) :
    decodeWord s.idex.word = .instr i := by
  rw [h.word]
  exact decodeOfEncode i hwf

/-- The step with the word of `i` in execute runs `i`, whose cycle's output is `e`. -/
theorem step_of_inExecute (hwf : i.wellFormed = true) (h : InExecute (encode i) s) (he : execOut i s = e) :
    step s = .next (cycle s e) := by
  rw [step_instr h.running (decode_of_inExecute hwf h), he]

theorem halt_cycle_execOut (he : execOut i s = e) : (cycle s e).halt = s.halt := by
  rw [cycle_halt, ← he, execOut_haltEv, commitHalt_none]

theorem running_cycle {w : Word} (h : InExecute w s) (he : execOut i s = e) :
    (cycle s e).halt.halted = false := by
  rw [halt_cycle_execOut he, h.running]

/-- The instruction completes with what its execute output puts into `EXMEM`. -/
theorem completes_of_inExecute {aluOut : Word} {regWrite : Bool} {rd : RegIdx} (hwf : i.wellFormed = true)
    (h : InExecute (encode i) s) (he : execOut i s = e)
    (hl : e.exmem = ⟨s.idex.word, s.idex.opA, s.idex.opB, aluOut, regWrite, rd⟩) :
    Completes i s (cycle s e) aluOut regWrite rd where
  exec := by rw [exec_eq_cycle, he]
  step := step_of_inExecute hwf h he
  cycle := wholeCycle_cycle s e
  halt := halt_cycle_execOut he
  exmem := hl

/-! ### The two cycles after -/

/-- What writeback writes for a word that is not SW is the memory stage's data (40 R221, R231, R233). -/
theorem writebackValue_memoryStage (cfg : Config) (m : Memory) {l : EXMEM} (hns : isStore l.word = false) :
    writebackValue (memoryStage cfg m l) = memoryStageData cfg m l := by
  cases hl : isLoad l.word <;> simp [writebackValue, memoryStage, memoryStageData, hl, hns]

theorem memoryStageData_of_load (cfg : Config) (m : Memory) {l : EXMEM} (h : isLoad l.word = true) :
    memoryStageData cfg m l = memRead cfg m l.aluOut := if_pos h

theorem memoryStageData_of_alu (cfg : Config) (m : Memory) {l : EXMEM} (hl : isLoad l.word = false)
    (hs : isStore l.word = false) : memoryStageData cfg m l = l.aluOut := by
  simp [memoryStageData, hl, hs]

/-- A writing latch in `EXMEM` of a running core retires with the memory stage's data. -/
theorem retiresWith_of_exmem (hrun : t.halt.halted = false) (hw : t.exmem.regWrite = true)
    (hns : isStore t.exmem.word = false) :
    RetiresWith t t.exmem.rd (memoryStageData t.cfg t.mem t.exmem) := by
  refine ⟨_, step_running hrun, rfl, fun hrun' => ⟨_, step_running hrun', ?_⟩⟩
  rw [← writebackValue_memoryStage t.cfg t.mem hns]
  exact cycle_writesOnly _ hw

theorem retiresSilently_of_exmem (hrun : t.halt.halted = false) (hw : t.exmem.regWrite = false) : RetiresSilently t :=
  ⟨_, step_running hrun, fun hrun' => ⟨_, step_running hrun', cycle_sameRegs _ hw⟩⟩

end

/-! ### The kinds of instruction -/

section
variable {i : Instr} {s : State} {rd : RegIdx} {v : Word}

theorem isLoad_encode (hwf : i.wellFormed = true) (hi : ∀ rd rs1 imm, i ≠ .lw rd rs1 imm) :
    isLoad (encode i) = false := by
  rw [← Bool.not_eq_true, isLoad_iff, decodeOfEncode i hwf]
  rintro ⟨rd, rs1, imm, h⟩
  exact hi rd rs1 imm (Decoded.instr.inj h)

theorem isStore_encode (hwf : i.wellFormed = true) (hi : ∀ rs1 rs2 imm, i ≠ .sw rs1 rs2 imm) :
    isStore (encode i) = false := by
  rw [← Bool.not_eq_true, isStore_iff, decodeOfEncode i hwf]
  rintro ⟨rs1, rs2, imm, h⟩
  exact hi rs1 rs2 imm (Decoded.instr.inj h)

/-- A result that is the ALU output reaches `rd` two cycles later. -/
theorem retiresWith_alu {e : ExecOut} (hwf : i.wellFormed = true) (h : InExecute (encode i) s) (he : execOut i s = e)
    (hl : e.exmem = ⟨s.idex.word, s.idex.opA, s.idex.opB, v, true, rd⟩) (hload : ∀ rd rs1 imm, i ≠ .lw rd rs1 imm)
    (hstore : ∀ rs1 rs2 imm, i ≠ .sw rs1 rs2 imm) : RetiresWith (cycle s e) rd v := by
  have hword : (cycle s e).exmem.word = encode i := by rw [cycle_exmem, hl]; exact h.word
  have hnl : isLoad (cycle s e).exmem.word = false := hword ▸ isLoad_encode hwf hload
  have hns : isStore (cycle s e).exmem.word = false := hword ▸ isStore_encode hwf hstore
  have hret := retiresWith_of_exmem (running_cycle h he) (by rw [cycle_exmem, hl]) hns
  rw [memoryStageData_of_alu _ _ hnl hns] at hret
  rwa [cycle_exmem, hl] at hret

/-- The rule of the register-writing arithmetic: `i` computes `v` and it reaches `rd`. -/
theorem writesResult_of_inExecute (h : InExecute (encode i) s) (hwf : i.wellFormed = true)
    (he : execOut i s = .writes s.idex rd v) (hload : ∀ rd rs1 imm, i ≠ .lw rd rs1 imm)
    (hstore : ∀ rs1 rs2 imm, i ≠ .sw rs1 rs2 imm) : WritesResult i s rd v :=
  ⟨_, completes_of_inExecute hwf h he rfl, fetchesOn_cycle s rfl, retiresWith_alu hwf h he rfl hload hstore⟩

/-- The rule of the branches: the redirect to the target or to pc + 4 (44 R430). -/
theorem branchesTo_of_inExecute {taken : Bool} (h : InExecute (encode i) s) (hwf : i.wellFormed = true)
    (he : execOut i s = .branch s.idex taken) :
    BranchesTo i s (if taken = true then s.idex.pc + s.idex.imm else s.idex.pc + 4#32) :=
  ⟨_, completes_of_inExecute hwf h he rfl, fetchesAt_cycle s rfl,
    retiresSilently_of_exmem (running_cycle h he) rfl⟩

end

/-! ### Values as integers -/

section
variable (a b : Word)

theorem add_eq_ofNat : a + b = BitVec.ofNat 32 (a.toNat + b.toNat) := by
  rw [BitVec.ofNat_add, BitVec.ofNat_toNat, BitVec.ofNat_toNat, BitVec.setWidth_eq, BitVec.setWidth_eq]

theorem add_eq_ofInt : a + b = BitVec.ofInt 32 (a.toInt + b.toInt) := by
  rw [BitVec.ofInt_add, BitVec.ofInt_toInt, BitVec.ofInt_toInt]

theorem sub_eq_ofInt : a - b = BitVec.ofInt 32 (a.toInt - b.toInt) := by
  apply BitVec.eq_of_toInt_eq
  rw [BitVec.toInt_sub, BitVec.toInt_ofInt]

theorem shiftLeft_eq_ofNat (n : Nat) : a <<< n = BitVec.ofNat 32 (a.toNat * 2 ^ n) := by
  apply BitVec.eq_of_toNat_eq
  rw [BitVec.toNat_shiftLeft, BitVec.toNat_ofNat, Nat.shiftLeft_eq]

theorem ushiftRight_eq_ofNat (n : Nat) : a >>> n = BitVec.ofNat 32 (a.toNat / 2 ^ n) := by
  apply BitVec.eq_of_toNat_eq
  rw [BitVec.toNat_ushiftRight, BitVec.toNat_ofNat, Nat.shiftRight_eq_div_pow,
    Nat.mod_eq_of_lt (Nat.lt_of_le_of_lt (Nat.div_le_self _ _) a.isLt)]

theorem sshiftRight_eq_ofInt (n : Nat) : a.sshiftRight n = BitVec.ofInt 32 (a.toInt / 2 ^ n) := by
  rw [BitVec.sshiftRight, Int.shiftRight_eq_div_pow]
  norm_cast

theorem shiftAmount_eq : shiftAmount b = b.toNat % 32 := toNat_extract_low_five b

theorem boolWord_condLt : boolWord (condLt a b) = if a.toInt < b.toInt then 1#32 else 0#32 := by
  simp only [boolWord, condLt, decide_eq_true_eq]

theorem boolWord_condLtu : boolWord (condLtu a b) = if a.toNat < b.toNat then 1#32 else 0#32 := by
  simp only [boolWord, condLtu, decide_eq_true_eq]

end

/-! ### Register-register instructions (41) -/

/-- Settles O20: the rule of the register-writing arithmetic, with the sum and the difference as integers. -/
theorem registerArithmetic : Obligations.RegisterArithmetic := by
  intro s rd rs1 rs2
  refine ⟨fun h => ?add, fun h => ?sub, fun h => ?xor, fun h => ?or, fun h => ?and⟩
  case add => rw [← add_eq_ofNat]; exact writesResult_of_inExecute (i := .add rd rs1 rs2) h rfl rfl nofun nofun
  case sub => rw [← sub_eq_ofInt]; exact writesResult_of_inExecute (i := .sub rd rs1 rs2) h rfl rfl nofun nofun
  case xor => exact writesResult_of_inExecute (i := .xor rd rs1 rs2) h rfl rfl nofun nofun
  case or => exact writesResult_of_inExecute (i := .or rd rs1 rs2) h rfl rfl nofun nofun
  case and => exact writesResult_of_inExecute (i := .and rd rs1 rs2) h rfl rfl nofun nofun

/-- Settles O21: the three shifts by `shiftAmount`, which is the low five bits. -/
theorem registerShifts : Obligations.RegisterShifts := by
  intro s rd rs1 rs2
  rw [← shiftAmount_eq]
  refine ⟨fun h => ?sll, fun h => ?srl, fun h => ?sra⟩
  case sll => rw [← shiftLeft_eq_ofNat]; exact writesResult_of_inExecute (i := .sll rd rs1 rs2) h rfl rfl nofun nofun
  case srl => rw [← ushiftRight_eq_ofNat]; exact writesResult_of_inExecute (i := .srl rd rs1 rs2) h rfl rfl nofun nofun
  case sra => rw [← sshiftRight_eq_ofInt]; exact writesResult_of_inExecute (i := .sra rd rs1 rs2) h rfl rfl nofun nofun

/-- Settles O22: the two comparisons as a condition of integers. -/
theorem registerComparisons : Obligations.RegisterComparisons := by
  intro s rd rs1 rs2
  refine ⟨fun h => ?slt, fun h => ?sltu⟩
  case slt => rw [← boolWord_condLt]; exact writesResult_of_inExecute (i := .slt rd rs1 rs2) h rfl rfl nofun nofun
  case sltu => rw [← boolWord_condLtu]; exact writesResult_of_inExecute (i := .sltu rd rs1 rs2) h rfl rfl nofun nofun

/-! ### Register-immediate instructions (42) -/

section
variable {s : State} {rd rs1 rs2 : RegIdx} {f3 : BitVec 3}

theorem imm_of_encI {op : Opcode} {imm : BitVec 12} (h : InExecute (encI op f3 rd rs1 imm) s)
    (hop : op = opOPIMM ∨ op = opLOAD) : s.idex.imm = imm.signExtend 32 := by
  rcases hop with rfl | rfl
  · rw [h.imm, immOf_of_opImm (opcodeOf_encI ..), immIOf_encI]
  · rw [h.imm, immOf_of_load (opcodeOf_encI ..), immIOf_encI]

theorem imm_of_encS {imm : BitVec 12} (h : InExecute (encS rs1 rs2 imm) s) : s.idex.imm = imm.signExtend 32 := by
  rw [h.imm, immOf_of_store (opcodeOf_encS ..), immSOf_encS]

theorem imm_of_encB {off : BitVec 13} (heven : evenOffset off = true) (h : InExecute (encB f3 rs1 rs2 off) s) :
    s.idex.imm = off.signExtend 32 := by
  rw [h.imm, immOf_of_branch (opcodeOf_encB ..), offBOf_encB_of_even _ _ _ heven]

theorem imm_of_encJ {off : BitVec 21} (heven : evenOffset off = true) (h : InExecute (encJ rd off) s) :
    s.idex.imm = off.signExtend 32 := by
  rw [h.imm, immOf_of_jal (opcodeOf_encJ ..), offJOf_encJ_of_even _ heven]

theorem imm_of_encU {imm : BitVec 20} (h : InExecute (encU rd imm) s) : s.idex.imm = imm ++ 0#12 := by
  rw [h.imm, immOf_of_lui (opcodeOf_encU ..), immUOf_encU, upperImm]

theorem shiftAmount_of_encShift {f7 : BitVec 7} {shamt : BitVec 5} (h : InExecute (encShift f7 f3 rd rs1 shamt) s) :
    shiftAmount s.idex.imm = shamt.toNat := by
  rw [h.imm, shiftAmount, extract_immOf_encShift]

end

/-- Settles O23: the rule of the register-writing arithmetic, with the latched immediate that of the word. -/
theorem immediateArithmetic : Obligations.ImmediateArithmetic := by
  intro s rd rs1 imm
  refine ⟨fun h => ?addi, fun h => ?xori, fun h => ?ori, fun h => ?andi⟩
  case addi =>
    rw [← BitVec.toInt_signExtend_of_le (show 12 ≤ 32 by decide), ← add_eq_ofInt, ← imm_of_encI h (.inl rfl)]
    exact writesResult_of_inExecute (i := .addi rd rs1 imm) h rfl rfl nofun nofun
  case xori =>
    rw [← imm_of_encI h (.inl rfl)]
    exact writesResult_of_inExecute (i := .xori rd rs1 imm) h rfl rfl nofun nofun
  case ori =>
    rw [← imm_of_encI h (.inl rfl)]
    exact writesResult_of_inExecute (i := .ori rd rs1 imm) h rfl rfl nofun nofun
  case andi =>
    rw [← imm_of_encI h (.inl rfl)]
    exact writesResult_of_inExecute (i := .andi rd rs1 imm) h rfl rfl nofun nofun

/-- Settles O24: SLTI with the sign-extended immediate, and the shifts by the amount in the word. -/
theorem immediateComparisonAndShifts : Obligations.ImmediateComparisonAndShifts := by
  intro s rd rs1 imm shamt
  refine ⟨fun h => ?slti, fun h => ?slli, fun h => ?srli, fun h => ?srai⟩
  case slti =>
    rw [← BitVec.toInt_signExtend_of_le (show 12 ≤ 32 by decide), ← imm_of_encI h (.inl rfl), ← boolWord_condLt]
    exact writesResult_of_inExecute (i := .slti rd rs1 imm) h rfl rfl nofun nofun
  case slli =>
    rw [← shiftAmount_of_encShift h, ← shiftLeft_eq_ofNat]
    exact writesResult_of_inExecute (i := .slli rd rs1 shamt) h rfl rfl nofun nofun
  case srli =>
    rw [← shiftAmount_of_encShift h, ← ushiftRight_eq_ofNat]
    exact writesResult_of_inExecute (i := .srli rd rs1 shamt) h rfl rfl nofun nofun
  case srai =>
    rw [← shiftAmount_of_encShift h, ← sshiftRight_eq_ofInt]
    exact writesResult_of_inExecute (i := .srai rd rs1 shamt) h rfl rfl nofun nofun

/-- Settles O25: LUI's output is a writing or a silent latch, by the parameter. -/
theorem loadUpperImmediate : Obligations.LoadUpperImmediate := by
  intro s rd imm h
  rw [← imm_of_encU h]
  refine ⟨fun hw => ?_, fun hw => ?_⟩
  · have he : execOut (.lui rd imm) s = .writes s.idex rd s.idex.imm := if_pos hw
    exact writesResult_of_inExecute h rfl he nofun nofun
  · have he : execOut (.lui rd imm) s = .silent s.idex s.idex.imm := by
      rw [execOut, hw, if_neg Bool.false_ne_true]
    exact ⟨_, completes_of_inExecute rfl h he rfl, fetchesOn_cycle s rfl,
      retiresSilently_of_exmem (running_cycle h he) rfl⟩

/-! ### Load and store (43) -/

theorem isLoad_encode_lw (rd rs1 : RegIdx) (imm : BitVec 12) : isLoad (encode (.lw rd rs1 imm)) = true :=
  (isLoad_iff _).2 ⟨rd, rs1, imm, decodeOfEncode _ rfl⟩

theorem isStore_encode_sw (rs1 rs2 : RegIdx) (imm : BitVec 12) : isStore (encode (.sw rs1 rs2 imm)) = true :=
  (isStore_iff _).2 ⟨rs1, rs2, imm, decodeOfEncode _ rfl⟩

/-- LW's result is the word of memory as its own cycle leaves it, at the address it computed (43 R400). -/
theorem retiresWith_lw {s : State} {rd rs1 : RegIdx} {imm : BitVec 12} (h : InExecute (encode (.lw rd rs1 imm)) s) :
    RetiresWith (cycle s (execOut (.lw rd rs1 imm) s)) rd (memRead s.cfg (cycleMem s) (s.idex.opA + s.idex.imm)) := by
  have hword : (cycle s (execOut (.lw rd rs1 imm) s)).exmem.word = encode (.lw rd rs1 imm) := h.word
  have hret := retiresWith_of_exmem (running_cycle h rfl) rfl (hword ▸ isStore_encode (i := .lw rd rs1 imm) rfl nofun)
  rwa [memoryStageData_of_load _ _ (hword ▸ isLoad_encode_lw rd rs1 imm)] at hret

/-- Settles O26 by `retiresWith_lw`. -/
theorem loadWord : Obligations.LoadWord := by
  intro s rd rs1 imm h
  rw [← imm_of_encI h (.inr rfl)]
  exact ⟨_, completes_of_inExecute (i := .lw rd rs1 imm) rfl h rfl rfl, fetchesOn_cycle s rfl, retiresWith_lw h⟩

/-- Settles O27: the latch SW leaves makes the memory stage of the next cycle write opB at the address. -/
theorem storeWord : Obligations.StoreWord := by
  intro s rs1 rs2 imm h hm
  rw [← imm_of_encS h]
  have hrun := running_cycle (i := .sw rs1 rs2 imm) h rfl
  have hmem : ∀ e, (cycle (cycle s (execOut (.sw rs1 rs2 imm) s)) e).mem =
      memWrite s.cfg (cycleMem s) (s.idex.opA + s.idex.imm) s.idex.opB := by
    intro e
    refine cycleMem_of_store ?_
    rw [cycle_exmem, execOut, ExecOut.silent, h.word]
    exact isStore_encode_sw rs1 rs2 imm
  refine ⟨_, _, completes_of_inExecute (i := .sw rs1 rs2 imm) rfl h rfl rfl, fetchesOn_cycle s rfl,
    retiresSilently_of_exmem hrun rfl, step_running hrun, fun hacc k hk => ?_, fun hacc => ?_, fun a ha => ?_⟩
  · rw [hmem, readByte_memWrite _ (wf_cycleMem hm) hacc hk, byteOf]
  · rw [hmem, memWrite_of_not_accessible _ _ (by rw [hacc]; exact Bool.false_ne_true), cycle_mem]
  · rw [hmem, readByte_memWrite_other _ _ _ _ ha, cycle_mem]

/-- Settles O28: the memory LW's next cycle reads is the one SW's memory stage has just written. -/
theorem loadAfterStore : Obligations.LoadAfterStore := by
  intro s rd rs1 imm h hm hstore haddr hacc
  rw [← imm_of_encI h (.inr rfl)] at haddr
  have hread : memRead s.cfg (cycleMem s) (s.idex.opA + s.idex.imm) = s.exmem.opB := by
    rw [← haddr, cycleMem_of_store hstore, memRead_memWrite _ hm hacc]
  exact ⟨_, exec_eq_cycle _ s, step_of_inExecute (i := .lw rd rs1 imm) rfl h rfl, hread ▸ retiresWith_lw h⟩

/-! ### Branches and JAL (44) -/

/-- Settles O29: the rule of the branches, with the comparison as an equation. -/
theorem equalityBranches : Obligations.EqualityBranches := by
  intro s rs1 rs2 off heven
  refine ⟨fun h => ?beq, fun h => ?bne⟩
  case beq =>
    rw [← imm_of_encB heven h]
    simpa only [condEq, decide_eq_true_eq] using branchesTo_of_inExecute (i := .beq rs1 rs2 off) h heven rfl
  case bne =>
    rw [← imm_of_encB heven h]
    simpa only [condNe, decide_eq_true_eq] using branchesTo_of_inExecute (i := .bne rs1 rs2 off) h heven rfl

/-- Settles O30: the rule of the branches, with the comparisons of the signed and the unsigned values. -/
theorem orderedBranches : Obligations.OrderedBranches := by
  intro s rs1 rs2 off heven
  refine ⟨fun h => ?blt, fun h => ?bge, fun h => ?bltu, fun h => ?bgeu⟩
  case blt =>
    rw [← imm_of_encB heven h]
    simpa only [condLt, decide_eq_true_eq] using branchesTo_of_inExecute (i := .blt rs1 rs2 off) h heven rfl
  case bge =>
    rw [← imm_of_encB heven h]
    simpa only [condGe, decide_eq_true_eq] using branchesTo_of_inExecute (i := .bge rs1 rs2 off) h heven rfl
  case bltu =>
    rw [← imm_of_encB heven h]
    simpa only [condLtu, decide_eq_true_eq] using branchesTo_of_inExecute (i := .bltu rs1 rs2 off) h heven rfl
  case bgeu =>
    rw [← imm_of_encB heven h]
    simpa only [condGeu, decide_eq_true_eq] using branchesTo_of_inExecute (i := .bgeu rs1 rs2 off) h heven rfl

/-- Settles O31: JAL redirects as a branch does, and its link is a result as of an arithmetic instruction. -/
theorem jumpAndLink : Obligations.JumpAndLink := by
  intro s rd off heven h
  rw [← imm_of_encJ heven h]
  exact ⟨_, completes_of_inExecute (i := .jal rd off) heven h rfl rfl, fetchesAt_cycle s rfl,
    retiresWith_alu (i := .jal rd off) heven h rfl rfl nofun nofun⟩

/-! ### NOP (45) -/

/-- Settles O33: NOP's cycle is that of a bubble without a halt event. -/
theorem nopInExecute : Obligations.NopInExecute := by
  intro s h
  exact ⟨_, exec_eq_cycle .nop s, step_of_inExecute (i := .nop) rfl h rfl, wholeCycle_cycle s _, rfl,
    halt_cycle_execOut (i := .nop) rfl, fetchesOn_cycle s rfl,
    retiresSilently_of_exmem (running_cycle (i := .nop) h rfl) rfl⟩

end Sys2Proof.Machine
end

section
/-! The invariant along a cycle: one lemma for each of its parts that a stage can change, and the obligations O36, O58 and
O59. -/

namespace Sys2Proof.Machine

/-! ### Writeback's stall logic (40 R225, R226) -/

section
variable {st : StallState} {l : MEMWB}

theorem producerRetires_iff : producerRetires st l = true ↔
    l.regWrite = true ∧ l.rd = st.prodRd ∧ opcodeOf l.word = st.prodOpcode := by
  rw [producerRetires, decide_eq_true_eq]

theorem releaseStall_of_not_stalled (h : st.mode ≠ .stalled) : releaseStall st l = st := by
  unfold releaseStall
  cases hm : st.mode with
  | stalled => exact absurd hm h
  | normal => rfl
  | branchBubble => rfl

theorem releaseStall_of_release (h : st.mode = .stalled) (hr : st.remaining - 1 = 0 ∨ producerRetires st l = true) :
    releaseStall st l = { st with mode := .normal, remaining := 0 } := by
  simp only [releaseStall, h, if_pos hr]

theorem releaseStall_of_countdown (h : st.mode = .stalled)
    (hr : ¬ (st.remaining - 1 = 0 ∨ producerRetires st l = true)) :
    releaseStall st l = { st with remaining := st.remaining - 1 } := by
  simp only [releaseStall, h, if_neg hr]

/-- No stall begins in writeback. -/
theorem stalled_of_releaseStall (h : (releaseStall st l).mode = .stalled) : st.mode = .stalled := by
  by_contra hm
  rw [releaseStall_of_not_stalled hm] at h
  exact hm h

/-- No branch bubble begins or ends in writeback. -/
theorem releaseStall_branchBubble_iff : (releaseStall st l).mode = .branchBubble ↔ st.mode = .branchBubble := by
  by_cases hm : st.mode = .stalled
  · by_cases hr : st.remaining - 1 = 0 ∨ producerRetires st l = true
    · simp [releaseStall_of_release hm hr, hm]
    · simp [releaseStall_of_countdown hm hr, hm]
  · rw [releaseStall_of_not_stalled hm]

end

/-- Settles O36: the two releases, the countdown, and the modes that are not Stalled. -/
theorem stallRelease : Obligations.StallRelease := by
  refine fun st l => ⟨fun hm hr => ?_, fun hm h2 hn => ?_, releaseStall_of_not_stalled⟩
  · refine releaseStall_of_release hm (hr.imp (fun h1 => ?_) producerRetires_iff.2)
    rw [h1]
  · have hcount : ¬ (st.remaining - 1 = 0 ∨ producerRetires st l = true) := by
      rw [h2, producerRetires_iff]
      exact not_or.2 ⟨by decide, hn⟩
    rw [releaseStall_of_countdown hm hcount, h2]

/-! ### The stall state -/

theorem stallOk_of_not_stalled {st : StallState} (h : st.mode ≠ .stalled) (h0 : st.remaining = 0) : StallOk st :=
  ⟨fun hs => absurd hs h, fun _ => h0⟩

theorem stallOk_releaseStall {st : StallState} (l : MEMWB) (h : StallOk st) : StallOk (releaseStall st l) := by
  by_cases hm : st.mode = .stalled
  · by_cases hr : st.remaining - 1 = 0 ∨ producerRetires st l = true
    · rw [releaseStall_of_release hm hr]
      exact stallOk_of_not_stalled nofun rfl
    · rw [releaseStall_of_countdown hm hr]
      refine ⟨fun _ => ?_, fun hn => absurd hm hn⟩
      have hrem := h.1 hm
      have hpos := (not_or.1 hr).1
      simp only
      omega
  · rwa [releaseStall_of_not_stalled hm]

theorem stallOk_enterStall (st : StallState) (b : Bypass) (w : Word) : StallOk (enterStall st b w) := by
  refine ⟨fun _ => ?_, fun hn => absurd (enterStall_mode st b w) hn⟩
  unfold enterStall
  split
  · exact .inr rfl
  · exact .inl rfl

theorem stallOk_cycleDecode {s : State} (e : ExecOut) (h : StallOk s.stall) : StallOk (cycleDecode s e).stall := by
  have hst := stallOk_releaseStall s.memwb h
  refine cycleDecode_cases s e (P := fun d => StallOk d.stall) (fun hm => ?_) (fun _ => hst) (fun _ _ => hst)
    (fun _ _ _ _ => stallOk_enterStall _ _ _) (fun hm _ _ => ?_)
  · exact stallOk_of_not_stalled nofun (hst.2 (by rw [hm]; nofun))
  · cases isControl s.ifid.word with
    | true => exact stallOk_of_not_stalled nofun (hst.2 (by rw [hm]; nofun))
    | false => exact hst

/-! ### The latch decode leaves -/

@[simp] theorem idexZero_word : IDEX.zero.word = 0#32 := rfl
@[simp] theorem idexZero_imm : IDEX.zero.imm = 0#32 := rfl
@[simp] theorem passLatch_word (cfg : Config) (fw : Bool) (b : Bypass) (f : IFID) : (passLatch cfg fw b f).word = f.word := rfl
@[simp] theorem passLatch_pc (cfg : Config) (fw : Bool) (b : Bypass) (f : IFID) : (passLatch cfg fw b f).pc = f.pc := rfl
@[simp] theorem passLatch_opA (cfg : Config) (fw : Bool) (b : Bypass) (f : IFID) :
    (passLatch cfg fw b f).opA = operand cfg fw b (rs1Of f.word) := rfl
@[simp] theorem passLatch_opB (cfg : Config) (fw : Bool) (b : Bypass) (f : IFID) :
    (passLatch cfg fw b f).opB = operand cfg fw b (rs2Of f.word) := rfl
@[simp] theorem passLatch_imm (cfg : Config) (fw : Bool) (b : Bypass) (f : IFID) :
    (passLatch cfg fw b f).imm = immOf f.word := rfl

/-- The branch-pending mode stands exactly behind a control word that decode passed (40 R262, R291). -/
theorem cycleDecode_branchBubble_iff (s : State) (e : ExecOut) :
    (cycleDecode s e).stall.mode = .branchBubble ↔ isControl (cycleDecode s e).idex.word = true := by
  refine cycleDecode_cases s e (P := fun d => d.stall.mode = .branchBubble ↔ isControl d.idex.word = true) (fun _ => ?_)
    (fun hm => ?_) (fun hm _ => ?_) (fun _ _ _ _ => ?_) (fun hm _ _ => ?_)
  · simp
  · simp [hm]
  · rw [DecodesNormally] at hm
    simp [hm]
  · simp
  · rw [DecodesNormally] at hm
    cases hc : isControl s.ifid.word <;> simp [hm, hc]

theorem cycleDecode_zero_of_stalled {s : State} {e : ExecOut} (h : (cycleDecode s e).stall.mode = .stalled) :
    (cycleDecode s e).idex = IDEX.zero := by
  revert h
  refine cycleDecode_cases s e (P := fun d => d.stall.mode = .stalled → d.idex = IDEX.zero) (fun _ _ => rfl)
    (fun _ _ => rfl) (fun _ _ _ => rfl) (fun _ _ _ _ _ => rfl) (fun hm _ _ => ?_)
  rw [DecodesNormally] at hm
  cases isControl s.ifid.word <;> simp [hm]

theorem cycleDecode_imm (s : State) (e : ExecOut) : (cycleDecode s e).idex.imm = immOf (cycleDecode s e).idex.word :=
  cycleDecode_cases s e (P := fun d => d.idex.imm = immOf d.idex.word) (fun _ => rfl) (fun _ => rfl) (fun _ _ => rfl)
    (fun _ _ _ _ => rfl) (fun _ _ _ => rfl)

/-! ### The destination in `EXMEM` (40 R243) -/

section
variable {cfg : Config} {w : Word} {i : Instr}

theorem writesRegister_lui {rd : RegIdx} {imm : BitVec 20} (h : decodeWord w = .instr (.lui rd imm)) :
    writesRegister cfg w = cfg.luiWritesRd := by
  simp only [writesRegister, h]

theorem writesRegister_of_decode (h : decodeWord w = .instr i) (hi : ∀ rd imm, i ≠ .lui rd imm) :
    writesRegister cfg w = i.dest?.isSome := by
  cases i with
  | lui rd imm => exact absurd rfl (hi rd imm)
  | _ => simp only [writesRegister, h]

theorem not_store_of_writesRegister (h : writesRegister cfg w = true) : isStore w = false := by
  rw [← Bool.not_eq_true, isStore_iff]
  rintro ⟨rs1, rs2, imm, hd⟩
  rw [writesRegister_of_decode hd nofun] at h
  cases h

theorem destOk_writes {rd : RegIdx} (h : decodeWord w = .instr i) (hd : i.dest? = some rd)
    (hw : writesRegister cfg w = true) : DestOk cfg w true rd :=
  ⟨hw.symm, by rw [hw, if_pos rfl, dest_of_decode h hd]⟩

theorem destOk_silent (hw : writesRegister cfg w = false) : DestOk cfg w false 0#5 :=
  ⟨hw.symm, by rw [hw, if_neg Bool.false_ne_true]⟩

theorem destOk_zero : DestOk cfg 0#32 false 0#5 := destOk_silent (writesRegister_of_decode decodeWord_zero nofun)

end

/-- Every instruction's execute output carries the destination of its word, and 0 where it writes none (40 R243). -/
theorem destOk_execOut {s : State} {i : Instr} (h : decodeWord s.idex.word = .instr i) :
    DestOk s.cfg (execOut i s).exmem.word (execOut i s).exmem.regWrite (execOut i s).exmem.rd := by
  cases i
  case add | sub | sll | slt | sltu | xor | srl | sra | or | and => exact destOk_writes h rfl (writesRegister_of_decode h nofun)
  case addi | slti | xori | ori | andi | slli | srli | srai | lw | jal =>
    exact destOk_writes h rfl (writesRegister_of_decode h nofun)
  case sw | beq | bne | blt | bge | bltu | bgeu => exact destOk_silent (writesRegister_of_decode h nofun)
  case nop => exact destOk_zero
  case lui =>
    have hw := writesRegister_lui (cfg := s.cfg) h
    rw [execOut]
    cases hl : s.cfg.luiWritesRd with
    | true => exact destOk_writes h rfl (hw.trans hl)
    | false => exact destOk_silent (hw.trans hl)

theorem destOk_execOutWord (s : State) :
    DestOk s.cfg (execOutWord s).exmem.word (execOutWord s).exmem.regWrite (execOutWord s).exmem.rd := by
  by_cases hd : ∀ i, decodeWord s.idex.word ≠ .instr i
  · obtain ⟨r, -, he⟩ := execOutWord_rejected hd
    rw [he]
    exact destOk_zero
  · obtain ⟨i, hi⟩ := not_forall_not.1 hd
    rw [execOutWord_instr hi]
    exact destOk_execOut hi

/-! ### The halt record -/

theorem haltOk_clear : HaltOk HaltState.clear := ⟨fun _ => rfl, nofun⟩

theorem haltOk_halted {r : HaltReason} (pc word : Word) (hr : r ≠ .noHalt) : HaltOk ⟨true, r, pc, word⟩ :=
  ⟨nofun, fun _ => hr⟩

theorem haltOk_commitHalt {h : HaltState} (r : HaltReason) (d : IDEX) (hh : HaltOk h) : HaltOk (commitHalt h r d) := by
  by_cases hr : r = .noHalt
  · rwa [hr, commitHalt_none]
  · rw [commitHalt_event _ _ _ hr]
    exact haltOk_halted _ _ hr

/-! ### The step -/

theorem mapped_cycleMem {s : State} (hr : regionsWf s.cfg.regions = true) (hm : Mapped s.cfg s.mem) :
    Mapped s.cfg (cycleMem s) := by
  cases hs : isStore s.exmem.word with
  | true => rw [cycleMem_of_store hs]; exact mapped_memWrite _ _ hr hm
  | false => rwa [cycleMem_of_not_store hs]

/-- A cycle keeps the invariant, whatever execute produces, as long as its latch carries the destination of its word. -/
theorem invariant_cycle {s : State} {e : ExecOut} (h : Invariant s)
    (he : DestOk s.cfg e.exmem.word e.exmem.regWrite e.exmem.rd) : Invariant (cycle s e) where
  regions := h.regions
  memWf := wf_cycleMem h.memWf
  memMapped := mapped_cycleMem h.regions h.memMapped
  stallOk := stallOk_cycleDecode e h.stallOk
  control := cycleDecode_branchBubble_iff s e
  stalledBubble := cycleDecode_zero_of_stalled
  idexImm := cycleDecode_imm s e
  exmemDest := he
  memwbDest := h.exmemDest
  memwbData hw := by
    obtain ⟨hdest, -⟩ := h.exmemDest
    exact writebackValue_memoryStage _ _ (not_store_of_writesRegister (hdest.symm.trans hw))
  pcFollows _ := rfl
  haltOk := haltOk_commitHalt _ _ h.haltOk
  counters := congrArg (· + 1) h.counters

/-- Settles O59: a step leaves a halted state as it is, and is otherwise a cycle whose execute output carries the destination of
the word. -/
theorem stepKeepsInvariant : Obligations.StepKeepsInvariant := by
  intro s t h hstep
  obtain ⟨-, rfl⟩ | ⟨-, rfl⟩ := step_cases hstep
  · exact h
  · exact invariant_cycle h (destOk_execOutWord s)

/-! ### The reset state -/

/-- The cleared state with any canonical memory inside the regions meets the invariant (70 R600). -/
theorem invariant_cleared {cfg : Config} (forwarding : Bool) {m : Memory} (hr : regionsWf cfg.regions = true)
    (hm : m.wf = true) (hmap : Mapped cfg m) : Invariant { State.cleared cfg forwarding with mem := m } where
  regions := hr
  memWf := hm
  memMapped := hmap
  stallOk := stallOk_of_not_stalled nofun rfl
  control := iff_of_false nofun nofun
  stalledBubble := nofun
  idexImm := rfl
  exmemDest := destOk_zero
  memwbDest := destOk_zero
  memwbData := nofun
  pcFollows h := absurd rfl h
  haltOk := haltOk_clear
  counters := rfl

/-- Settles O58: the example region list is well-formed, and memory lists nothing. -/
theorem resetMeetsInvariant : Obligations.ResetMeetsInvariant :=
  invariant_cleared Config.example.forwardingAtPowerOn (cfg := Config.example) (by decide) Memory.wf_nil (mapped_nil _)

end Sys2Proof.Machine
end

section
/-! Decode and fetch: which cycles redirect fetch, the hazard and the forwarding unit in terms of the latches a cycle leaves
(40 R255 to R264), what the word in decode does not reach, and the obligations O32, O34, O35 and O37 to O49. -/

namespace Sys2Proof.Machine

/-! ### Redirects (40 R244, 44 R430, R440) -/

theorem execOut_redirect (i : Instr) (s : State) :
    (execOut i s).redirect = decide (i.opcode = opBRANCH ∨ i.opcode = opJAL) := by
  cases i
  case lui => rw [execOut]; split <;> rfl
  all_goals rfl

/-- A redirect goes to the target or to the fall-through. -/
theorem execOut_target {i : Instr} {s : State} (h : (execOut i s).redirect = true) :
    (execOut i s).target = s.idex.pc + s.idex.imm ∨ (execOut i s).target = s.idex.pc + 4#32 := by
  cases i
  case beq | bne | blt | bge | bltu | bgeu => exact ite_eq_or_eq _ _ _
  case jal => exact .inl rfl
  all_goals
    rw [execOut_redirect] at h
    exact absurd h Bool.false_ne_true

theorem execOut_redirect_of_control {s : State} {i : Instr} (hi : decodeWord s.idex.word = .instr i)
    (hc : isControl s.idex.word = true) : (execOut i s).redirect = true := by
  rw [execOut_redirect, ← isControl_of_decode hi, hc]

/-- Only a branch or JAL instruction redirects; a rejected word with such an opcode does not (40 R244, R246). -/
theorem execOutWord_not_redirect {s : State}
    (h : ∀ i, decodeWord s.idex.word = .instr i → isControl s.idex.word = false) : (execOutWord s).redirect = false := by
  by_cases hd : ∀ i, decodeWord s.idex.word ≠ .instr i
  · obtain ⟨r, -, he⟩ := execOutWord_rejected hd
    rw [he, ExecOut.bubble]
  · obtain ⟨i, hi⟩ := not_forall_not.1 hd
    rw [execOutWord_instr hi, execOut_redirect, ← isControl_of_decode hi, h i hi]

/-- A bubble in execute is the NOP word, whose output is a bubble (40 R245). -/
theorem execOutWord_of_zero {s : State} (h : s.idex = IDEX.zero) : execOutWord s = .bubble .noHalt := by
  have hd : decodeWord s.idex.word = .instr .nop := by rw [h, idexZero_word, decodeWord_zero]
  exact execOutWord_instr hd

/-! ### Hazards (40 R256, R258) -/

theorem exmem_feeds_iff (l : EXMEM) (r : RegIdx) : l.feeds r = true ↔ l.Writes r := by
  rw [EXMEM.feeds, decide_eq_true_eq, EXMEM.Writes]

theorem memwb_feeds_iff (l : MEMWB) (r : RegIdx) : l.feeds r = true ↔ l.Writes r := by
  rw [MEMWB.feeds, decide_eq_true_eq, MEMWB.Writes]

/-- One of the two source fields of a word has a property (40 R255). -/
theorem exists_reads_iff {w : Word} {p : RegIdx → Prop} : (∃ r, Reads w r ∧ p r) ↔ p (rs1Of w) ∨ p (rs2Of w) := by
  constructor
  · rintro ⟨r, rfl | rfl, hp⟩
    · exact .inl hp
    · exact .inr hp
  · rintro (hp | hp)
    · exact ⟨_, .inl rfl, hp⟩
    · exact ⟨_, .inr rfl, hp⟩

theorem exmem_hits_iff (l : EXMEM) (w : Word) :
    l.hits (rs1Of w) (rs2Of w) = true ↔ ∃ r, Reads w r ∧ l.Writes r := by
  rw [EXMEM.hits, Bool.or_eq_true, exmem_feeds_iff, exmem_feeds_iff, exists_reads_iff]

theorem memwb_hits_iff (l : MEMWB) (w : Word) :
    l.hits (rs1Of w) (rs2Of w) = true ↔ ∃ r, Reads w r ∧ l.Writes r := by
  rw [MEMWB.hits, Bool.or_eq_true, memwb_feeds_iff, memwb_feeds_iff, exists_reads_iff]

/-- The hazard check by the latches the cycle leaves. -/
theorem hazard_iff (s : State) (e : ExecOut) (w : Word) : hazard (cycleBypass s e) w = true ↔
    (∃ r, Reads w r ∧ (cycle s e).exmem.Writes r) ∨ ∃ r, Reads w r ∧ (cycle s e).memwb.Writes r := by
  rw [hazard, Bool.or_eq_true, exmem_hits_iff, memwb_hits_iff]
  rfl

theorem not_hazard_iff (s : State) (e : ExecOut) (w : Word) : ¬ hazard (cycleBypass s e) w = true ↔
    ∀ r, Reads w r → ¬ (cycle s e).exmem.Writes r ∧ ¬ (cycle s e).memwb.Writes r := by
  rw [hazard_iff, ← exists_or]
  simp only [← and_or_left, not_exists, not_and, not_or]

section
variable {s : State} {e : ExecOut}

/-- A hazard with `EXMEM` enters the stall of two cycles (40 R259). -/
theorem cycleDecode_of_exmem_hazard (hn : DecodesNormally s) (h0 : s.ifid.word ≠ 0#32) (hf : s.stall.forwarding = false)
    (h : ∃ r, Reads s.ifid.word r ∧ (cycle s e).exmem.Writes r) :
    cycleDecode s e = ⟨IDEX.zero, ⟨.stalled, 2, opcodeOf e.exmem.word, e.exmem.rd, false⟩, true⟩ := by
  have hhit : (cycleBypass s e).exmem.hits (rs1Of s.ifid.word) (rs2Of s.ifid.word) = true := (exmem_hits_iff _ _).2 h
  rw [cycleDecode_of_hazard hn h0 hf ((hazard_iff s e _).2 (.inl h)), enterStall, if_pos hhit, releaseStall_forwarding, hf]
  rfl

/-- A hazard with `MEMWB` only enters the stall of one cycle (40 R259). -/
theorem cycleDecode_of_memwb_hazard (hn : DecodesNormally s) (h0 : s.ifid.word ≠ 0#32) (hf : s.stall.forwarding = false)
    (hx : ∀ r, Reads s.ifid.word r → ¬ (cycle s e).exmem.Writes r)
    (h : ∃ r, Reads s.ifid.word r ∧ (cycle s e).memwb.Writes r) :
    cycleDecode s e = ⟨IDEX.zero, ⟨.stalled, 1, opcodeOf s.exmem.word, s.exmem.rd, false⟩, true⟩ := by
  have hmiss : ¬ (cycleBypass s e).exmem.hits (rs1Of s.ifid.word) (rs2Of s.ifid.word) = true := by
    rw [exmem_hits_iff]
    exact fun ⟨r, hr, hw⟩ => hx r hr hw
  rw [cycleDecode_of_hazard hn h0 hf ((hazard_iff s e _).2 (.inr h)), enterStall, if_neg hmiss, releaseStall_forwarding, hf]
  rfl

/-- While the mode is Stalled and nothing redirects, the held word is fetched again and the pc stays (40 R277, D41). -/
theorem cycle_refetches (hr : e.redirect = false) (hm : (cycleDecode s e).stall.mode = .stalled) :
    (cycle s e).ifid.pc = s.pc - 4#32 ∧ (cycle s e).pc = s.pc := by
  have hpc : (cycle s e).ifid.pc = s.pc - 4#32 := (fetchesOn_cycle s hr).trans (if_pos hm)
  exact ⟨hpc, by rw [(wholeCycle_cycle s e).pc, hpc, BitVec.sub_add_cancel]⟩

/-- The mode decode leaves behind a word it passes (40 R262). -/
theorem passed_mode (hn : DecodesNormally s) :
    (if isControl s.ifid.word then { releaseStall s.stall s.memwb with mode := .branchBubble }
      else releaseStall s.stall s.memwb).mode = if isControl s.ifid.word then .branchBubble else .normal := by
  split
  · rfl
  · exact hn

/-! ### Operands (40 R256, R257) -/

theorem operand_without_forwarding (b : Bypass) (r : RegIdx) : operand s.cfg false b r = readReg s.cfg b.x r := by
  simp [operand]

/-- The forwarding unit, by the latches the cycle leaves: `EXMEM` first, then `MEMWB`, else the register. -/
theorem operand_with_forwarding (r : RegIdx) :
    ((cycle s e).exmem.Writes r → operand s.cfg true (cycleBypass s e) r = (cycle s e).exmem.aluOut) ∧
    (¬ (cycle s e).exmem.Writes r → (cycle s e).memwb.Writes r →
      operand s.cfg true (cycleBypass s e) r = (cycle s e).memwb.memData) ∧
    (¬ (cycle s e).exmem.Writes r → ¬ (cycle s e).memwb.Writes r →
      operand s.cfg true (cycleBypass s e) r = (cycle s e).reg r) := by
  rw [← exmem_feeds_iff, ← memwb_feeds_iff]
  refine ⟨fun hx => ?_, fun hx hw => ?_, fun hx hw => ?_⟩
  · exact if_pos ⟨rfl, hx⟩
  · exact (if_neg fun h => hx h.2).trans (if_pos ⟨rfl, hw⟩)
  · exact (if_neg fun h => hx h.2).trans (if_neg fun h => hw h.2)

/-- Decode puts the word in `IFID` into `IDEX` unless it stalls, a NOP among the words (40 R253, R261). -/
theorem cycleDecode_word (hn : DecodesNormally s) (hp : s.stall.forwarding = true ∨
    ∀ r, Reads s.ifid.word r → ¬ (cycle s e).exmem.Writes r ∧ ¬ (cycle s e).memwb.Writes r) :
    (cycleDecode s e).idex.word = s.ifid.word := by
  by_cases h0 : s.ifid.word = 0#32
  · rw [cycleDecode_of_nop hn h0, h0, idexZero_word]
  · have hpass : ¬ (s.stall.forwarding = false ∧ hazard (cycleBypass s e) s.ifid.word = true) := by
      rintro ⟨hf, hz⟩
      rcases hp with hp | hp
      · rw [hf] at hp
        exact Bool.false_ne_true hp
      · exact (not_hazard_iff s e _).2 hp hz
    rw [cycleDecode_of_pass hn h0 hpass, passLatch_word]

end

/-! ### What a cycle does not read -/

/-- Execute reads neither `IFID` nor the stall state. -/
theorem execOutWord_with (s : State) (f : IFID) (st : StallState) :
    execOutWord { s with ifid := f, stall := st } = execOutWord s := by
  have hout : ∀ i, execOut i { s with ifid := f, stall := st } = execOut i s := by
    intro i
    cases i <;> rfl
  simp only [execOutWord, hout]

/-- Two states that differ in `IFID` and the stall state step alike where decode answers alike. -/
theorem step_with_of_decode {s : State} {f : IFID} {st : StallState} (hrun : s.halt.halted = false)
    (h : ∀ e, cycleDecode { s with ifid := f, stall := st } e = cycleDecode s e) :
    step { s with ifid := f, stall := st } = step s := by
  rw [step_running (s := { s with ifid := f, stall := st }) hrun, step_running hrun, execOutWord_with]
  simp only [cycle, cycleFetchAddr, h]
  rfl

/-- In the branch bubble the word in `IFID` is discarded, whatever it is (40 R251). -/
theorem step_with_ifid_of_branchBubble {s : State} (f : IFID) (hrun : s.halt.halted = false)
    (hm : s.stall.mode = .branchBubble) : step { s with ifid := f } = step s := by
  have hm' := releaseStall_branchBubble_iff (l := s.memwb).2 hm
  refine step_with_of_decode (st := s.stall) hrun fun e => ?_
  exact (cycleDecode_of_branchBubble (s := { s with ifid := f }) hm').trans (cycleDecode_of_branchBubble hm').symm

/-- The bubble, and the mode and stall state the branch bubble leaves (40 R251). -/
theorem cycleDecode_in_branchBubble {s : State} (e : ExecOut) (hm : s.stall.mode = .branchBubble) :
    cycleDecode s e = ⟨IDEX.zero, { s.stall with mode := .normal }, false⟩ := by
  have hst : releaseStall s.stall s.memwb = s.stall := releaseStall_of_not_stalled (by rw [hm]; nofun)
  rw [cycleDecode_of_branchBubble (by rw [hst, hm]), hst]

/-! ### Branch shadow and branch bubble -/

/-- Settles O39: decode's case in the branch bubble, and a redirect only by a branch or JAL instruction. -/
theorem branchBubbleCycle : Obligations.BranchBubbleCycle := by
  intro s hrun hm
  have hdec := cycleDecode_in_branchBubble (execOutWord s) hm
  refine ⟨_, step_running hrun, by rw [cycle_idex, hdec], by rw [cycle_stall, hdec], fun hnc => ?_, fun f => ?_⟩
  · have hpc : (cycle s (execOutWord s)).ifid.pc = s.pc := by
      refine (fetchesOn_cycle s (execOutWord_not_redirect hnc)).trans (if_neg ?_)
      rw [cycle_stall, hdec]
      nofun
    exact ⟨hpc, by rw [(wholeCycle_cycle s _).pc, hpc]⟩
  · rw [step_with_ifid_of_branchBubble f hrun hm, step_running hrun]

/-- Settles O32: the invariant puts the mode in BranchBubble behind the branch, so O39's case applies, and the branch
redirects. -/
theorem branchShadowIsDiscarded : Obligations.BranchShadowIsDiscarded := by
  rintro s t hinv - hstep hrun ⟨i, hi⟩ hc
  have hm : t.stall.mode = .branchBubble := (stepKeepsInvariant s t hinv hstep).control.2 hc
  have hdec := cycleDecode_in_branchBubble (execOut i t) hm
  have hred := execOut_redirect_of_control hi hc
  obtain ⟨hpc, -⟩ := fetchesAt_cycle t hred
  refine ⟨_, step_instr hrun hi, by rw [cycle_idex, hdec], by rw [cycle_stall, hdec], ?_, fun f => ?_⟩
  · rw [hpc]
    exact execOut_target hred
  · rw [step_with_ifid_of_branchBubble f hrun hm, step_instr hrun hi]

/-! ### NOP in decode and register 0 -/

/-- Settles O34: decode's NOP case. -/
theorem nopInDecode : Obligations.NopInDecode := by
  intro s t hrun hn h0 hstep
  obtain rfl := eq_cycle_of_step hrun hstep
  rw [cycle_idex, cycle_stall, cycleDecode_of_nop hn h0]
  exact ⟨rfl, rfl⟩

/-- Settles O35: writeback's write of register 0, and the read of a hardwired one. -/
theorem registerZeroWritten : Obligations.RegisterZeroWritten := by
  intro s t hrun hstep
  obtain rfl := eq_cycle_of_step hrun hstep
  refine ⟨fun hx hw hrd => ?_, fun hx => ?_⟩
  · obtain ⟨hkept, -, -⟩ := cycle_writesOnly (execOutWord s) hw
    rw [← hrd]
    refine hkept fun ⟨hx', _⟩ => ?_
    rw [hx] at hx'
    cases hx'
  · exact if_pos ⟨hx, rfl⟩

/-! ### Stalls -/

/-- Settles O37: execute holds a bubble while stalled, so nothing redirects, and decode holds. -/
theorem stalledCycleHolds : Obligations.StalledCycleHolds := by
  intro s hinv hrun hm
  have hbub := execOutWord_of_zero (hinv.stalledBubble (stalled_of_releaseStall hm))
  have hdec : cycleDecode s (execOutWord s) = _ := cycleDecode_of_stalled hm
  refine ⟨_, step_running hrun, by rw [cycle_idex, hdec], by rw [cycle_stall, hdec], ?_⟩
  exact cycle_refetches (by rw [hbub]; rfl) (by rw [hdec]; exact hm)

/-- Settles O38: after the release decode sees the stall state it would see in Normal mode. -/
theorem releasedStallDecodesNormally : Obligations.ReleasedStallDecodesNormally := by
  intro s hm hn t hrun
  have hrel : releaseStall s.stall s.memwb = { s.stall with mode := .normal, remaining := 0 } := by
    refine releaseStall_of_release hm ?_
    by_contra hr
    rw [DecodesNormally, releaseStall_of_countdown hm hr] at hn
    exact StallMode.noConfusion (hm.symm.trans hn)
  have hstep : step { s with stall := { s.stall with mode := .normal, remaining := 0 } } = step s := by
    refine step_with_of_decode (f := s.ifid) hrun fun e => ?_
    unfold cycleDecode
    rw [hrel, releaseStall_of_not_stalled (by nofun)]
    rfl
  rw [hstep]

/-- Settles O40: the two stall entries, and the re-fetch where nothing redirects. -/
theorem hazardEntersStall : Obligations.HazardEntersStall := by
  intro s t hrun hstep hf hn h0
  obtain rfl := eq_cycle_of_step hrun hstep
  refine ⟨fun hx => ?_, fun hx hw => ?_⟩
  · have hdec := cycleDecode_of_exmem_hazard hn h0 hf hx
    exact ⟨by rw [cycle_idex, hdec], by rw [cycle_stall, hdec]; rfl, fun hc =>
      cycle_refetches (execOutWord_not_redirect fun _ _ => hc) (by rw [hdec])⟩
  · have hdec := cycleDecode_of_memwb_hazard hn h0 hf hx hw
    exact ⟨by rw [cycle_idex, hdec], by rw [cycle_stall, hdec]; rfl, fun hc =>
      cycle_refetches (execOutWord_not_redirect fun _ _ => hc) (by rw [hdec])⟩

/-! ### Passing -/

/-- Settles O41: decode's passing case, with both operands the registers. -/
theorem passesWithoutForwarding : Obligations.PassesWithoutForwarding := by
  intro s t hrun hstep hf hn h0 hclear
  obtain rfl := eq_cycle_of_step hrun hstep
  have hdec := cycleDecode_of_pass hn h0 fun hz => (not_hazard_iff s _ _).2 hclear hz.2
  rw [hf] at hdec
  refine ⟨?_, by rw [cycle_stall, hdec]; exact passed_mode hn⟩
  rw [cycle_idex, hdec, passLatch, operand_without_forwarding, operand_without_forwarding]
  rfl

/-- Settles O42: with forwarding decode always passes, with each operand from the forwarding unit. -/
theorem passesWithForwarding : Obligations.PassesWithForwarding := by
  intro s t hrun hstep hf hn h0
  obtain rfl := eq_cycle_of_step hrun hstep
  have hdec : cycleDecode s (execOutWord s) = _ :=
    cycleDecode_of_pass hn h0 fun hz => Bool.false_ne_true (hz.1.symm.trans hf)
  rw [hf] at hdec
  rw [cycle_idex, cycle_stall, hdec]
  refine ⟨rfl, rfl, rfl, passed_mode hn, ?_⟩
  rintro r v (⟨rfl, rfl⟩ | ⟨rfl, rfl⟩)
  · exact operand_with_forwarding _
  · exact operand_with_forwarding _

/-- Settles O43: of decode's cases only the passing one leaves a word that is not 0, and without forwarding it has no hazard. -/
theorem passedOperandsAreCurrent : Obligations.PassedOperandsAreCurrent := by
  intro s t hrun hstep hf hne
  have hcases : DecodesNormally s ∧ s.ifid.word ≠ 0#32 ∧
      ∀ r, Reads s.ifid.word r → ¬ t.exmem.Writes r ∧ ¬ t.memwb.Writes r := by
    obtain rfl := eq_cycle_of_step hrun hstep
    revert hne
    rw [cycle_idex]
    refine cycleDecode_cases s (execOutWord s) (P := fun d => d.idex.word ≠ 0#32 → _) (fun _ h => absurd rfl h)
      (fun _ h => absurd rfl h) (fun _ _ h => absurd rfl h) (fun _ _ _ _ h => absurd rfl h) (fun hn h0 hp _ => ⟨hn, h0, ?_⟩)
    exact (not_hazard_iff s _ _).1 fun hz => hp ⟨hf, hz⟩
  obtain ⟨hn, h0, hclear⟩ := hcases
  obtain ⟨hidex, -⟩ := passesWithoutForwarding s t hrun hstep hf hn h0 hclear
  rw [hidex]
  exact ⟨rfl, rfl, hclear⟩

/-- Settles O44: the LW's latch in `EXMEM` feeds the reader, and its ALU output is the address (O42). -/
theorem loadUseReceivesAddress : Obligations.LoadUseReceivesAddress := by
  intro s rd rs1 imm h hf hn h0 hrd
  rw [← imm_of_encI h (.inr rfl)]
  have hstep := step_of_inExecute (i := .lw rd rs1 imm) rfl h rfl
  obtain ⟨hword, -, -, -, hop⟩ := passesWithForwarding s _ h.running hstep hf hn h0
  have hwrites : (cycle s (execOut (.lw rd rs1 imm) s)).exmem.Writes rd := ⟨rfl, hrd, rfl⟩
  refine ⟨_, hstep, hword, fun h1 => ?_, fun h2 => ?_⟩
  · exact (hop rd _ (.inl ⟨h1.symm, rfl⟩)).1 hwrites
  · exact (hop rd _ (.inr ⟨h2.symm, rfl⟩)).1 hwrites

/-! ### Stall lengths (40 R292) -/

/-- A running state with a bubble in execute: its next cycle is that of NOP. -/
structure BubbleInExecute (s : State) : Prop where
  running : s.halt.halted = false
  idex : s.idex = IDEX.zero

/-- The state after the cycle of a bubble. -/
def afterBubble (s : State) : State := cycle s (.bubble .noHalt)

section
variable {s : State}

theorem step_afterBubble (h : BubbleInExecute s) : step s = .next (afterBubble s) := by
  rw [step_running h.running, execOutWord_of_zero h.idex, afterBubble]

theorem afterBubble_exmem_not_writes (s : State) (r : RegIdx) : ¬ (afterBubble s).exmem.Writes r := nofun

/-- What `MEMWB` writes after a cycle is what `EXMEM` wrote before it. -/
theorem afterBubble_memwb_writes_iff (s : State) (r : RegIdx) : (afterBubble s).memwb.Writes r ↔ s.exmem.Writes r := Iff.rfl

/-- With one cycle remaining the stall ends in writeback, whatever retires (40 R225). -/
theorem decodesNormally_of_one (hm : s.stall.mode = .stalled) (h1 : s.stall.remaining = 1) : DecodesNormally s := by
  rw [DecodesNormally, releaseStall_of_release hm (.inl (by rw [h1]))]

/-- The last stalled cycle: the word is passed with its registers where no latch behind the bubble writes them. -/
theorem afterBubble_passes (h : BubbleInExecute s) (hf : s.stall.forwarding = false) (hm : s.stall.mode = .stalled)
    (h1 : s.stall.remaining = 1) (h0 : s.ifid.word ≠ 0#32) (hclear : ∀ r, Reads s.ifid.word r → ¬ s.exmem.Writes r) :
    (afterBubble s).idex.word = s.ifid.word ∧ (afterBubble s).idex.opA = (afterBubble s).reg (rs1Of s.ifid.word) ∧
      (afterBubble s).idex.opB = (afterBubble s).reg (rs2Of s.ifid.word) := by
  obtain ⟨hidex, -⟩ := passesWithoutForwarding s _ h.running (step_afterBubble h) hf (decodesNormally_of_one hm h1) h0
    fun r hr => ⟨afterBubble_exmem_not_writes s r, hclear r hr⟩
  rw [hidex]
  exact ⟨rfl, rfl, rfl⟩

/-- The first of two stalled cycles leaves a stall of one: the countdown reaches it, and where an older writer of the same
register and opcode releases the stall early, the reader meets its producer in `MEMWB` and stalls again. -/
theorem afterBubble_stalls (h : BubbleInExecute s) (hf : s.stall.forwarding = false) (hm : s.stall.mode = .stalled)
    (h2 : s.stall.remaining = 2) (h0 : s.ifid.word ≠ 0#32) (hx : ∃ r, Reads s.ifid.word r ∧ s.exmem.Writes r) :
    (afterBubble s).idex = IDEX.zero ∧ (afterBubble s).stall.mode = .stalled ∧ (afterBubble s).stall.remaining = 1 := by
  by_cases hr : s.stall.remaining - 1 = 0 ∨ producerRetires s.stall s.memwb = true
  · have hn : DecodesNormally s := by rw [DecodesNormally, releaseStall_of_release hm hr]
    obtain ⟨hidex, hstall, -⟩ := (hazardEntersStall s _ h.running (step_afterBubble h) hf hn h0).2
      (fun r _ => afterBubble_exmem_not_writes s r) hx
    rw [hstall]
    exact ⟨hidex, rfl, rfl⟩
  · have hst := releaseStall_of_countdown (l := s.memwb) hm hr
    have hdec : cycleDecode s (.bubble .noHalt) = _ := cycleDecode_of_stalled (by rw [hst]; exact hm)
    rw [afterBubble, cycle_idex, cycle_stall, hdec, hst, h2]
    exact ⟨rfl, hm, rfl⟩

end

/-- Settles O45: the stall entered behind `EXMEM` lasts a second bubble and then is a stall of one, behind which the word passes;
the one entered behind `MEMWB` is a stall of one at once. -/
theorem stallLengths : Obligations.StallLengths := by
  intro s t _ hrun hstep hf hn h0 hrun' hword
  have hf' : t.stall.forwarding = false := by
    rw [eq_cycle_of_step hrun hstep, (wholeCycle_cycle s _).forwarding, hf]
  obtain ⟨hfirst, hsecond⟩ := hazardEntersStall s t hrun hstep hf hn h0
  rw [← hword] at h0 hfirst hsecond ⊢
  refine ⟨fun hx => ?_, fun hx hw => ?_⟩
  · obtain ⟨hidex, hst, -⟩ := hfirst hx
    have hbub : BubbleInExecute t := ⟨hrun', hidex⟩
    obtain ⟨hidex', hm', h1'⟩ := afterBubble_stalls hbub hf' (by rw [hst]) (by rw [hst]) h0 hx
    have hbub' : BubbleInExecute (afterBubble t) := ⟨hrun', hidex'⟩
    refine ⟨_, _, step_afterBubble hbub, step_afterBubble hbub', hidex, hidex', fun hsame => ?_⟩
    have hf'' : (afterBubble t).stall.forwarding = false := (wholeCycle_cycle t _).forwarding.trans hf'
    have hpass := afterBubble_passes hbub' hf'' hm' h1' (hsame.symm ▸ h0) fun r _ => afterBubble_exmem_not_writes t r
    rwa [hsame] at hpass
  · obtain ⟨hidex, hst, -⟩ := hsecond hx hw
    have hbub : BubbleInExecute t := ⟨hrun', hidex⟩
    exact ⟨_, step_afterBubble hbub, hidex, afterBubble_passes hbub hf' (by rw [hst]) (by rw [hst]) h0 hx⟩

/-! ### Fetch -/

/-- Settles O46: only a branch or JAL instruction redirects. -/
theorem sequentialFetch : Obligations.SequentialFetch := by
  intro s t hrun hstep hnc
  obtain rfl := eq_cycle_of_step hrun hstep
  exact ⟨fetchesOn_cycle s (execOutWord_not_redirect hnc), rfl⟩

/-- Settles O47: the fetch is a `MemRead` that does not reach memory. -/
theorem fetchOutsideMemoryIsNop : Obligations.FetchOutsideMemoryIsNop := by
  intro s t hrun hstep hout
  obtain rfl := eq_cycle_of_step hrun hstep
  refine memRead_of_not_accessible _ ?_
  rcases hout with hmis | hrange
  · exact not_accessible_of_misaligned _ hmis
  · exact not_accessible_of_outOfRange hrange

/-- Settles O48: the fetch reads the memory the memory stage has just written (O11). -/
theorem fetchSeesStoreOfSameCycle : Obligations.FetchSeesStoreOfSameCycle := by
  intro s t hm hrun hstep hstore hacc hpc
  obtain rfl := eq_cycle_of_step hrun hstep
  rw [(wholeCycle_cycle s _).fetched, hpc, State.read, cycle_cfg, cycle_mem, cycleMem_of_store hstore, memRead_memWrite _ hm hacc]

/-- Settles O49: the word fetched is the word passed, and a step runs the word in execute (O13). -/
theorem fetchedWordReachesExecute : Obligations.FetchedWordReachesExecute := by
  intro s t u hrun hstep hrun' hstep' hrun'' hn hp
  obtain rfl := eq_cycle_of_step hrun' hstep'
  have hfetched : t.ifid.word = t.read t.ifid.pc := by
    rw [eq_cycle_of_step hrun hstep]
    exact (wholeCycle_cycle s _).fetched
  have hword : (cycle t (execOutWord t)).idex.word = t.read t.ifid.pc := (cycleDecode_word hn hp).trans hfetched
  exact ⟨hword, fun i hi => (stepRunsWordInExecute _ hrun'').1 i (hword ▸ hi)⟩

end Sys2Proof.Machine
end

section
/-! Reset, power-on and the host's commands (70 R600 to R610; 60 R520 to R529): when reset runs and what it leaves, the loops
that run cycles, and the obligations O50 to O55, O57 and O60. -/

namespace Sys2Proof.Machine

/-! ### Reset -/

section
variable {cfg : Config} {ws : List Word} {forwarding : Bool}

/-- The state reset leaves (70 R600, R608). -/
def resetState (cfg : Config) (forwarding : Bool) (ws : List Word) : State :=
  { State.cleared cfg forwarding with mem := loadWords cfg [] cfg.textBase ws }

theorem resetWith_of_illFormed (h : regionsWf cfg.regions = false) :
    resetWith cfg forwarding = .refused .regionsIllFormed := by
  rw [resetWith, h, if_neg Bool.false_ne_true]

theorem resetWith_of_noImage (h : regionsWf cfg.regions = true) (hi : cfg.image = none) :
    resetWith cfg forwarding = .refused .noProgram := by
  simp only [resetWith, h, if_true, hi]

theorem resetWith_of_image (h : regionsWf cfg.regions = true) (hi : cfg.image = some ws) :
    resetWith cfg forwarding =
      if imageFits cfg ws then .next (resetState cfg forwarding ws) else .refused .imageDoesNotFit := by
  simp only [resetWith, h, if_true, hi, resetState]

/-- The inversion of reset: when it answers a state, what held, and which state. -/
theorem resetWith_cases {t : State} (h : resetWith cfg forwarding = .next t) :
    regionsWf cfg.regions = true ∧ ∃ ws, cfg.image = some ws ∧ imageFits cfg ws = true ∧ t = resetState cfg forwarding ws := by
  cases hr : regionsWf cfg.regions with
  | false => rw [resetWith_of_illFormed hr] at h; cases h
  | true =>
    cases hi : cfg.image with
    | none => rw [resetWith_of_noImage hr hi] at h; cases h
    | some ws =>
      rw [resetWith_of_image hr hi] at h
      split at h
      case isTrue hfit => cases h; exact ⟨rfl, ws, rfl, hfit, rfl⟩
      case isFalse => cases h

/-- Regions that share an address are the same region of the list (20 R81). -/
theorem region_unique {rs : List Region} (h : regionsWf rs = true) {r q : Region} (hr : r ∈ rs) (hq : q ∈ rs) {a : Nat}
    (har : regionHolds r a = true) (haq : regionHolds q a = true) : r = q := by
  simp only [regionsWf, Bool.and_eq_true, decide_eq_true_eq] at h
  have hsymm : Std.Symm regionsDisjoint := ⟨fun _ _ => Or.symm⟩
  by_contra hne
  have hdisj : regionsDisjoint r q := h.2.forall hr hq hne
  simp only [regionHolds, decide_eq_true_eq] at har haq
  rcases hdisj with hd | hd <;> omega

/-- The fit premise (70 R610) by the regions: of a well-formed list, at most one region holds `textBase`. -/
theorem imageFits_iff (h : regionsWf cfg.regions = true) : imageFits cfg ws = true ↔
    ∃ r ∈ cfg.regions, cfg.textBase.toNat % 4 = 0 ∧ r.first.toNat ≤ cfg.textBase.toNat ∧
      cfg.textBase.toNat ≤ r.last.toNat ∧ cfg.textBase.toNat + 4 * ws.length ≤ r.last.toNat + 1 := by
  cases hreg : regionOf cfg cfg.textBase.toNat with
  | none =>
    simp only [imageFits, hreg, Bool.false_eq_true, false_iff]
    rintro ⟨r, hr, -, hlo, hhi, -⟩
    have hsome := (regionOf_isSome_iff cfg cfg.textBase.toNat).2 ⟨r, hr, hlo, hhi⟩
    rw [hreg] at hsome
    cases hsome
  | some q =>
    have hmem : q ∈ cfg.regions := List.mem_of_find?_eq_some hreg
    have hholds : regionHolds q cfg.textBase.toNat = true :=
      List.find?_some (p := fun r => regionHolds r cfg.textBase.toNat) hreg
    simp only [imageFits, hreg, decide_eq_true_eq]
    constructor
    · rintro ⟨hal, hfit⟩
      simp only [regionHolds, decide_eq_true_eq] at hholds
      exact ⟨q, hmem, hal, hholds.1, hholds.2, hfit⟩
    · rintro ⟨r, hr, hal, hlo, hhi, hfit⟩
      obtain rfl := region_unique h hr hmem (decide_eq_true ⟨hlo, hhi⟩) hholds
      exact ⟨hal, hfit⟩

/-- Settles O51: the three refusals in their order, and the fit premise by the regions. -/
theorem resetRunsOrIsRefused : Obligations.ResetRunsOrIsRefused := by
  intro s
  refine ⟨fun h => resetWith_of_illFormed h, fun h hi => resetWith_of_noImage h hi, fun ws h hi => ⟨fun hfit => ?_, fun hno => ?_⟩⟩
  · exact ⟨_, (resetWith_of_image h hi).trans (if_pos ((imageFits_iff h).2 hfit))⟩
  · refine (resetWith_of_image h hi).trans (if_neg fun hfit => ?_)
    obtain ⟨r, hr, hal, hlo, hhi, hlen⟩ := (imageFits_iff h).1 hfit
    exact hno r hr hal hlo hhi hlen

/-! ### What reset leaves -/

theorem reg_resetState (r : RegIdx) : (resetState cfg forwarding ws).reg r = 0#32 := by
  have hget : (Vector.replicate 32 (0#32 : Word)).get r.toFin = 0#32 := Vector.getElem_replicate _
  rw [State.reg, readReg]
  split
  · rfl
  · exact hget

/-- The addresses of an image that fits: none wraps, and each is accessible (70 R610). -/
theorem accessible_of_imageFits (h : regionsWf cfg.regions = true) (hfit : imageFits cfg ws = true) :
    cfg.textBase.toNat + 4 * ws.length ≤ 2 ^ 32 ∧
      ∀ i < ws.length, accessible cfg (cfg.textBase + BitVec.ofNat 32 (4 * i)) = true := by
  obtain ⟨r, hr, hal, hlo, hhi, hlen⟩ := (imageFits_iff h).1 hfit
  have hlast : r.last.toNat < 2 ^ 32 := r.last.isLt
  refine ⟨by omega, fun i hi => (accessible_iff _ _).2 ?_⟩
  have hnat : (cfg.textBase + BitVec.ofNat 32 (4 * i)).toNat = cfg.textBase.toNat + 4 * i := by
    rw [BitVec.toNat_add, BitVec.toNat_ofNat]
    omega
  rw [hnat]
  exact ⟨by omega, r, hr, by omega, by omega⟩

/-- Settles O50: the cleared state's fields, and the program load's words and bytes. -/
theorem resetLeaves : Obligations.ResetLeaves := by
  intro s t ws hi h
  obtain ⟨hr, ws', hi', hfit, rfl⟩ := resetWith_cases h
  obtain rfl : ws' = ws := Option.some.inj (hi'.symm.trans hi)
  obtain ⟨hend, hacc⟩ := accessible_of_imageFits hr hfit
  refine ⟨reg_resetState, rfl, rfl, rfl, rfl, rfl, rfl, rfl, rfl, rfl, rfl, rfl, rfl, fun i hlt => ?_, fun a ha => ?_⟩
  · exact memRead_loadWords s.cfg ws' [] s.cfg.textBase Memory.wf_nil hend hacc i hlt
  · exact readByte_loadWords_other s.cfg ws' [] s.cfg.textBase hend ha

/-- Settles O52: reset of the state power-on answers runs under the same configuration and flag. -/
theorem powerOnIsResetState : Obligations.PowerOnIsResetState := by
  intro cfg t h
  obtain ⟨-, ws, -, -, rfl⟩ := resetWith_cases h
  exact ⟨rfl, rfl, h⟩

theorem invariant_of_resetWith {t : State} (h : resetWith cfg forwarding = .next t) : Invariant t := by
  obtain ⟨hr, ws, -, -, rfl⟩ := resetWith_cases h
  exact invariant_cleared forwarding hr (wf_loadWords _ _ _ _ Memory.wf_nil) (mapped_loadWords hr _ _ (mapped_nil _))

end

/-! ### Running cycles (60 R521, R522) -/

section
variable {s t : State}

theorem stepN_succ (n : Nat) (hrun : s.halt.halted = false) (h : step s = .next t) : stepN (n + 1) s = stepN n t := by
  simp only [stepN, hrun, h, Bool.false_eq_true, if_false]

theorem runUntilHalt_succ (e : Word) (n : Nat) (hrun : s.halt.halted = false) (h : step s = .next t) :
    runUntilHalt e (n + 1) s = runUntilHalt e n (checkSentinel e t) := by
  simp only [runUntilHalt, hrun, h, Bool.false_eq_true, if_false]

theorem runUntilHalt_zero_running (e : Word) (hrun : s.halt.halted = false) : runUntilHalt e 0 s = .refused .noResult := by
  rw [runUntilHalt, hrun, if_neg Bool.false_ne_true]

theorem checkSentinel_at {e : Word} (hrun : t.halt.halted = false) (h : t.pc = e) : checkSentinel e t = haltAtSentinel t :=
  if_pos ⟨hrun, h⟩

theorem checkSentinel_of_halted {e : Word} (hh : t.halt.halted = true) : checkSentinel e t = t :=
  if_neg fun h => Bool.false_ne_true (h.1.symm.trans hh)

theorem checkSentinel_of_ne {e : Word} (h : t.pc ≠ e) : checkSentinel e t = t := if_neg fun h' => h h'.2

theorem cfg_of_step (h : step s = .next t) : t.cfg = s.cfg := by
  obtain ⟨-, rfl⟩ | ⟨-, rfl⟩ := step_cases h <;> rfl

end

/-- Settles O53, by induction on the number of cycles: the first is one step, unless the core is halted. -/
theorem stepCommand : Obligations.StepCommand := by
  intro n
  induction n with
  | zero => exact fun s => ⟨0, s, Nat.le_refl 0, rfl, rfl, fun h => absurd h (Nat.lt_irrefl 0), fun _ => rfl,
      fun j _ hj => absurd hj (Nat.not_lt_zero j)⟩
  | succ n ih =>
    intro s
    cases hrun : s.halt.halted with
    | true =>
      exact ⟨0, s, Nat.zero_le _, stepN_halted _ hrun, rfl, fun _ => hrun, fun _ => rfl,
        fun j _ hj => absurd hj (Nat.not_lt_zero j)⟩
    | false =>
      obtain ⟨s', hstep⟩ := everyStepAnswersNext s
      obtain ⟨k, t, hk, hcmd, hruns, hlast, -, hbefore⟩ := ih s'
      refine ⟨k + 1, t, Nat.succ_le_succ hk, (stepN_succ n hrun hstep).trans hcmd, (run_succ hstep k).trans hruns,
        fun hlt => hlast (Nat.lt_of_succ_lt_succ hlt), fun hh => absurd hh Bool.false_ne_true, fun j u hj hju => ?_⟩
      cases j with
      | zero => cases hju; exact hrun
      | succ j => exact hbefore j u (Nat.lt_of_succ_lt_succ hj) ((run_succ hstep j).symm.trans hju)

/-- A run to completion that answers a state answers a halted one, by induction on the fuel. -/
theorem halted_of_runUntilHalt (e : Word) (n : Nat) {s t : State} (h : runUntilHalt e n s = .next t) :
    t.halt.halted = true := by
  induction n generalizing s with
  | zero =>
    cases hrun : s.halt.halted with
    | true => rw [runUntilHalt_halted e 0 hrun] at h; cases h; exact hrun
    | false => rw [runUntilHalt_zero_running e hrun] at h; cases h
  | succ n ih =>
    cases hrun : s.halt.halted with
    | true => rw [runUntilHalt_halted e _ hrun] at h; cases h; exact hrun
    | false =>
      obtain ⟨s', hstep⟩ := everyStepAnswersNext s
      rw [runUntilHalt_succ e n hrun hstep] at h
      exact ih h

/-! ### Commands that write (60 R524, R526) -/

/-- Writeback's stall logic does not depend on the forwarding flag (40 R263). -/
theorem releaseStall_with_forwarding (st : StallState) (l : MEMWB) (f : Bool) :
    releaseStall { st with forwarding := f } l = { releaseStall st l with forwarding := f } := by
  by_cases hm : st.mode = .stalled
  · by_cases hr : st.remaining - 1 = 0 ∨ producerRetires st l = true
    · rw [releaseStall_of_release hm hr]
      exact releaseStall_of_release hm hr
    · rw [releaseStall_of_countdown hm hr]
      exact releaseStall_of_countdown hm hr
  · rw [releaseStall_of_not_stalled hm]
    exact releaseStall_of_not_stalled hm

/-- Settles O55: the four writes, and decode's stalled case, in which the flag is not read. -/
theorem writingCommands : Obligations.WritingCommands := by
  intro s r v
  refine ⟨⟨_, rfl, writesOnly_of_writeReg rfl rfl, rfl⟩, rfl, rfl, _, rfl, rfl, fun hrun hm => ?_⟩
  have hm' : (releaseStall (toggleForwarding s).stall (toggleForwarding s).memwb).mode = .stalled := by
    rw [toggleForwarding_stall, toggleForwarding_memwb, releaseStall_with_forwarding]
    exact hm
  refine ⟨_, step_running (s := toggleForwarding s) hrun, ?_, ?_⟩
  · rw [cycle_stall, cycleDecode_of_stalled hm', hm']
  · rw [cycle_idex, cycleDecode_of_stalled hm']

/-! ### Commands that view (60 R528, R529) -/

@[simp] theorem length_disassemble (s : State) (a : Word) (n : Nat) : (disassemble s a n).length = n := by
  simp only [disassemble, List.length_map, List.length_range]

theorem getElem?_disassemble (s : State) (a : Word) {n k : Nat} (hk : k < n) :
    (disassemble s a n)[k]? = some (disassembleWord s (a + BitVec.ofNat 32 (4 * k))) := by
  simp only [disassemble, List.getElem?_map, List.getElem?_range hk, Option.map_some]

theorem showLatches_record_shown {s : State} (h : s.cfg.stallRecordShown = true) :
    (showLatches s).record = some ⟨s.stall.remaining, s.stall.prodOpcode, s.stall.prodRd⟩ := if_pos h

theorem showLatches_record_hidden {s : State} (h : s.cfg.stallRecordShown = false) : (showLatches s).record = none := by
  rw [showLatches, h, if_neg Bool.false_ne_true]

/-- Settles O57: line `k` of the listing, the fields of the view under both values of the parameter, and the control state. -/
theorem viewingCommands : Obligations.ViewingCommands := by
  intro s a n
  refine ⟨rfl, ⟨disassemble s a n, rfl, length_disassemble s a n, fun k hk => ?_⟩, rfl, ?_, rfl⟩
  · exact ⟨_, rfl, getElem?_disassemble s a hk⟩
  · exact ⟨showLatches s, rfl, rfl, rfl, rfl, rfl, rfl, rfl, showLatches_record_shown, showLatches_record_hidden⟩

/-! ### The invariant under commands -/

section
variable {s : State}

theorem invariant_haltAtSentinel (h : Invariant s) : Invariant (haltAtSentinel s) :=
  { h with haltOk := haltOk_halted _ _ nofun }

theorem invariant_checkSentinel (e : Word) (h : Invariant s) : Invariant (checkSentinel e s) := by
  unfold checkSentinel
  split
  · exact invariant_haltAtSentinel h
  · exact h

theorem invariant_stepN (n : Nat) {t : State} (h : Invariant s) (hn : stepN n s = .next t) : Invariant t := by
  induction n generalizing s with
  | zero => cases hn; exact h
  | succ n ih =>
    cases hrun : s.halt.halted with
    | true => rw [stepN_halted _ hrun] at hn; cases hn; exact h
    | false =>
      obtain ⟨s', hstep⟩ := everyStepAnswersNext s
      rw [stepN_succ n hrun hstep] at hn
      exact ih (stepKeepsInvariant s s' h hstep) hn

theorem invariant_runUntilHalt (e : Word) (n : Nat) {t : State} (h : Invariant s) (hn : runUntilHalt e n s = .next t) :
    Invariant t := by
  induction n generalizing s with
  | zero =>
    cases hrun : s.halt.halted with
    | true => rw [runUntilHalt_halted e 0 hrun] at hn; cases hn; exact h
    | false => rw [runUntilHalt_zero_running e hrun] at hn; cases hn
  | succ n ih =>
    cases hrun : s.halt.halted with
    | true => rw [runUntilHalt_halted e _ hrun] at hn; cases hn; exact h
    | false =>
      obtain ⟨s', hstep⟩ := everyStepAnswersNext s
      rw [runUntilHalt_succ e n hrun hstep] at hn
      exact ih (invariant_checkSentinel e (stepKeepsInvariant s s' h hstep)) hn

theorem invariant_runToCompletion (n : Nat) {t : State} (h : Invariant s) (hn : runToCompletion n s = .next t) :
    Invariant t := by
  cases he : s.cfg.endPC with
  | none => rw [runToCompletion_of_noEndPC n he] at hn; cases hn
  | some e => rw [runToCompletion_of_endPC n he] at hn; exact invariant_runUntilHalt e n h hn

end

/-- Settles O60: the commands that run cycles by O59, reset and power-on by the state they leave; the others write no field the
invariant speaks of but the forwarding flag, on which no part of it depends. -/
theorem commandsKeepInvariant : Obligations.CommandsKeepInvariant := by
  refine ⟨fun c s t h hrun => ?_, fun cfg s h => invariant_of_resetWith h⟩
  cases c with
  | stepCycles n => exact invariant_stepN n h hrun
  | runToCompletion fuel => exact invariant_runToCompletion fuel h hrun
  | reset => exact invariant_of_resetWith hrun
  | setRegister | setHI | setLO | toggleForwarding => cases hrun; exact { h with }
  | dumpMemory | dumpRegisters | disassemble | showLatches => cases hrun; exact h

end Sys2Proof.Machine

namespace Sys2Proof

open Machine

/-- Settles O54: the loop's equations at a halted core, at the end of the fuel, and after one cycle. -/
theorem runToCompletion : Obligations.RunToCompletion := by
  refine ⟨fun n s t h => ?_, fun n s he => runToCompletion_of_noEndPC n he, fun n s e he => ⟨fun hh => ?_, fun hrun => ?_, ?_⟩⟩
  · rw [Command.run] at h
    cases he : s.cfg.endPC with
    | none => rw [runToCompletion_of_noEndPC n he] at h; cases h
    | some e => rw [runToCompletion_of_endPC n he] at h; exact halted_of_runUntilHalt e n h
  · exact (runToCompletion_of_endPC n he).trans (runUntilHalt_halted e n hh)
  · exact (runToCompletion_of_endPC 0 he).trans (runUntilHalt_zero_running e hrun)
  · intro t hrun hstep
    have hnext : Command.run (.runToCompletion (n + 1)) s = runUntilHalt e n (checkSentinel e t) :=
      (runToCompletion_of_endPC _ he).trans (runUntilHalt_succ e n hrun hstep)
    rw [hnext]
    refine ⟨fun hh => ?_, fun hrun' hpc => ?_, fun hrun' hpc => ?_⟩
    · rw [checkSentinel_of_halted hh, runUntilHalt_halted e n hh]
    · rw [checkSentinel_at hrun' hpc, runUntilHalt_halted e n rfl, haltAtSentinel, hpc]
    · rw [checkSentinel_of_ne hpc]
      exact (runToCompletion_of_endPC n ((congrArg Config.endPC (cfg_of_step hstep)).trans he)).symm

end Sys2Proof
end
